-- ==== Sys2Proof/Word.lean ====
section
/-!
DEFINITION. The word and byte types, and the keyed table every sparse piece of state is held in.
Little-endian, bit 0 least significant (R4).
-/

namespace Sys2Proof

/-- A 64-bit register, address or state word (R69, R79). -/
abbrev Word := BitVec 64

/-- One byte of memory or of a vector register. -/
abbrev Byte := BitVec 8

/-- A table keyed by numbers, its keys strictly rising; what an unlisted key reads as is the reader's. -/
abbrev Tab (α : Type) := List (Nat × α)

/-- `Wrap64` of R93, and of naturals. -/
abbrev wrap64 (n : Int) : Word := BitVec.ofInt 64 n

end Sys2Proof
end

