-- ==== Sys2Proof/Syntax.lean ====
section
/-!
DEFINITION. The instruction set: register specifiers (R50) and `Instr`, one constructor per row of the opcode table:
the 64-bit instructions, the 32-bit bank kernel words, and the steps of the device's other agents.
-/

namespace Sys2Proof

/-- The two sequencers of a hart (R11). -/
inductive Side where
  | a | x
  deriving DecidableEq, Repr, Inhabited

/-- A specifier byte, parsed by Table 3.2 (R50). -/
inductive Spec where
  /-- x0 to x31, with the last-use mark L -/
  | x (last : Bool) (i : BitVec 5)
  | o (i : BitVec 3)
  | l (i : BitVec 2)
  | q (i : BitVec 2)
  /-- k0 to k5; 6 and 7 are reserved -/
  | k (i : BitVec 3)
  | w (i : BitVec 1)
  | acc (i : BitVec 1)
  | bq
  | m
  | v (i : BitVec 5)
  | t (i : BitVec 5)
  /-- immediate from -32 to 31 -/
  | imm (v : BitVec 6)
  /-- every other byte of Table 3.2's reserved column -/
  | reserved (b : BitVec 8)
  deriving DecidableEq, Repr, Inhabited

/-- The element types by their codes in Table 2.1 (R22). -/
inductive ETy where
  | none | i8 | n8 | i16 | n16 | i32 | n32 | i64 | f4e2m1 | f8e4m3 | f8e5m2 | bf16 | f16 | f32 | cbx
  /-- code 0xF -/
  | reserved
  deriving DecidableEq, Repr, Inhabited

/-- Who owns a line in state O (R234). -/
inductive Owner where
  | l1 (core : Nat) | engine (id : Nat) | host
  deriving DecidableEq, Repr, Inhabited

/-- The header of a request from the host over AHT: the partition it names, its tag and its address (Table 18.6, R247). -/
structure HostReq where
  part : BitVec 4
  tag : Nat
  addr : Nat
  deriving DecidableEq, Repr, Inhabited

/-- An IEEE 1588 message as far as the time base heeds it (R377): the port it arrives at, 0 the host port, and the rate it
asks for in ppm. -/
structure ClockMsg where
  port : Nat
  ppm : Int
  deriving DecidableEq, Repr, Inhabited

/-- A UCIe module of a link of the package (R378): of a shared edge one of eight, of a stack interface module 0. -/
structure EdgeModule where
  link : Nat
  module : Nat
  deriving DecidableEq, Repr, Inhabited

/-- The header of a request from another package over BFT (Table 18.6, R376). -/
structure BftReq where
  snode : Nat
  part : BitVec 4
  tag : Nat
  addr : Nat
  deriving DecidableEq, Repr, Inhabited

/-- The operations of an AHT or BFT Atomic: those of Table 8.3 and the counter add of R338. -/
inductive AtomicOp where
  | swap | cas | add | and | or | xor | min | max | minu | maxu | fadd | counterAdd
  deriving DecidableEq, Repr, Inhabited

/-- What the device compares among the commands of one collective (R205): FN, M[11:0], n and b. -/
structure CollShape where
  fn : BitVec 8
  mods : BitVec 12
  n : Nat
  count : Nat
  deriving DecidableEq, Repr, Inhabited

/-- One constructor per row of spec/opcode_table.json. Operand fields are named after the positions D, A, B and C
(`d a b cc`); `k` is the masked flag, `t` a type code, `z` a size code. The words that decoding builds with fields stand first: Lean's
compiled code numbers no more than 245 such constructors. -/
inductive Instr where
  /-- `SGET` (R114). -/
  | sget (d : Spec) (num : BitVec 12)
  /-- `SSET` (R115). -/
  | sset (num : BitVec 12) (a : Spec)
  /-- `LIVE` (R116). -/
  | live (mask : BitVec 32)
  /-- `TRAP` (R117). -/
  | trap (code : BitVec 15)
  /-- `BRK` (R117). -/
  | brk (code : BitVec 15)
  /-- `FENCE` (R206). -/
  | fence (p q : BitVec 5) (scope : BitVec 3)
  /-- `ADD` (R94). -/
  | add (d a b : Spec)
  /-- `SUB` (R94). -/
  | sub (d a b : Spec)
  /-- `AND` (R94). -/
  | and (d a b : Spec)
  /-- `OR` (R94). -/
  | or (d a b : Spec)
  /-- `XOR` (R94). -/
  | xor (d a b : Spec)
  /-- `SHL` (R94). -/
  | shl (d a b : Spec)
  /-- `SHR` (R94). -/
  | shr (d a b : Spec)
  /-- `SAR` (R94). -/
  | sar (d a b : Spec)
  /-- `MUL` (R94). -/
  | mul (d a b : Spec)
  /-- `MULH` (R94). -/
  | mulh (d a b : Spec)
  /-- `MULHU` (R94). -/
  | mulhu (d a b : Spec)
  /-- `DIV` (R95). -/
  | div (d a b : Spec)
  /-- `DIVU` (R95). -/
  | divu (d a b : Spec)
  /-- `MOD` (R95). -/
  | mod (d a b : Spec)
  /-- `MODU` (R95). -/
  | modu (d a b : Spec)
  /-- `MIN` (R94). -/
  | min (d a b : Spec)
  /-- `MAX` (R94). -/
  | max (d a b : Spec)
  /-- `MINU` (R94). -/
  | minu (d a b : Spec)
  /-- `MAXU` (R94). -/
  | maxu (d a b : Spec)
  /-- `SLT` (R94). -/
  | slt (d a b : Spec)
  /-- `SLTU` (R94). -/
  | sltu (d a b : Spec)
  /-- `SEQ` (R94). -/
  | seq (d a b : Spec)
  /-- `CLZ` (R94). -/
  | clz (d a : Spec)
  /-- `CTZ` (R94). -/
  | ctz (d a : Spec)
  /-- `POPC` (R94). -/
  | popc (d a : Spec)
  /-- `MV` (R94). -/
  | mv (d a : Spec)
  /-- `SEXT` (R94). -/
  | sext (d a : Spec) (w : BitVec 2)
  /-- `ZEXT` (R94). -/
  | zext (d a : Spec) (w : BitVec 2)
  /-- `ADDI` (R96). -/
  | addi (d a : Spec) (imm : BitVec 32)
  /-- `ANDI` (R96). -/
  | andi (d a : Spec) (imm : BitVec 32)
  /-- `ORI` (R96). -/
  | ori (d a : Spec) (imm : BitVec 32)
  /-- `XORI` (R96). -/
  | xori (d a : Spec) (imm : BitVec 32)
  /-- `SHLI` (R96). -/
  | shli (d a : Spec) (imm : BitVec 32)
  /-- `SHRI` (R96). -/
  | shri (d a : Spec) (imm : BitVec 32)
  /-- `SARI` (R96). -/
  | sari (d a : Spec) (imm : BitVec 32)
  /-- `LI` (R97). -/
  | li (d : Spec) (imm : BitVec 32)
  /-- `LIH` (R97). -/
  | lih (d a : Spec) (imm : BitVec 32)
  /-- `FADD` (R98). -/
  | fadd (d a b : Spec)
  /-- `FSUB` (R98). -/
  | fsub (d a b : Spec)
  /-- `FMUL` (R98). -/
  | fmul (d a b : Spec)
  /-- `FFMA` (R98). -/
  | ffma (d a b cc : Spec)
  /-- `FMIN` (R99). -/
  | fmin (d a b : Spec)
  /-- `FMAX` (R99). -/
  | fmax (d a b : Spec)
  /-- `FCMP_EQ` (R99). -/
  | fcmpEq (d a b : Spec)
  /-- `FCMP_LT` (R99). -/
  | fcmpLt (d a b : Spec)
  /-- `FCMP_LE` (R99). -/
  | fcmpLe (d a b : Spec)
  /-- `FCMP_UN` (R99). -/
  | fcmpUn (d a b : Spec)
  /-- `FCVT` (R100). -/
  | fcvt (d a : Spec) (dt st : BitVec 4)
  /-- `B_EQ` (R101). -/
  | bEq (a b : Spec) (off : BitVec 32)
  /-- `B_NE` (R101). -/
  | bNe (a b : Spec) (off : BitVec 32)
  /-- `B_LT` (R101). -/
  | bLt (a b : Spec) (off : BitVec 32)
  /-- `B_GE` (R101). -/
  | bGe (a b : Spec) (off : BitVec 32)
  /-- `B_LTU` (R101). -/
  | bLtu (a b : Spec) (off : BitVec 32)
  /-- `B_GEU` (R101). -/
  | bGeu (a b : Spec) (off : BitVec 32)
  /-- `JAL` (R102). -/
  | jal (d : Spec) (off : BitVec 32)
  /-- `JR` (R102). -/
  | jr (d a : Spec)
  /-- `LOOP` (R103). -/
  | loop (n : Spec) (p : Bool) (off : BitVec 32)
  /-- `SBR` (R109). -/
  | sbr (cnt r1 r2 r3 r4 : BitVec 5) (n : BitVec 2) (na : Bool) (sh : BitVec 2) (off : BitVec 18)
  /-- `BOUT_EQ` (R110). -/
  | boutEq (d a b : Spec)
  /-- `BOUT_NE` (R110). -/
  | boutNe (d a b : Spec)
  /-- `BOUT_LT` (R110). -/
  | boutLt (d a b : Spec)
  /-- `BOUT_GE` (R110). -/
  | boutGe (d a b : Spec)
  /-- `BOUT_LTU` (R110). -/
  | boutLtu (d a b : Spec)
  /-- `BOUT_GEU` (R110). -/
  | boutGeu (d a b : Spec)
  /-- `BIN` (R111). -/
  | bin (a : Spec) (off : BitVec 32)
  /-- `BMZ` (R112). -/
  | bmz (a : Spec) (off : BitVec 32)
  /-- `POST` (R262). -/
  | post (d a : Spec)
  /-- `POST_C` (R262). -/
  | postC (d a b : Spec)
  /-- `LD` (R180). -/
  | ld (z : BitVec 2) (d a b : Spec) (off : BitVec 24)
  /-- `LD_S` (R180). -/
  | ldS (z : BitVec 2) (d a b : Spec) (off : BitVec 24)
  /-- `LD_NT` (R180). -/
  | ldNt (z : BitVec 2) (d a b : Spec) (off : BitVec 24)
  /-- `LD_KEEP` (R180). -/
  | ldKeep (z : BitVec 2) (d a b : Spec) (off : BitVec 24)
  /-- `ST` (R180). -/
  | st (z : BitVec 2) (d a b : Spec) (off : BitVec 24)
  /-- `ST_NT` (R180). -/
  | stNt (z : BitVec 2) (d a b : Spec) (off : BitVec 24)
  /-- `ST_KEEP` (R180). -/
  | stKeep (z : BitVec 2) (d a b : Spec) (off : BitVec 24)
  /-- `AMO_SWAP` (R181). -/
  | amoSwap (d a b : Spec) (sz : BitVec 1)
  /-- `AMO_CAS` (R181). -/
  | amoCas (d a b cc : Spec) (sz : BitVec 1)
  /-- `AMO_ADD` (R181). -/
  | amoAdd (d a b : Spec) (sz : BitVec 1)
  /-- `AMO_AND` (R181). -/
  | amoAnd (d a b : Spec) (sz : BitVec 1)
  /-- `AMO_OR` (R181). -/
  | amoOr (d a b : Spec) (sz : BitVec 1)
  /-- `AMO_XOR` (R181). -/
  | amoXor (d a b : Spec) (sz : BitVec 1)
  /-- `AMO_MIN` (R181). -/
  | amoMin (d a b : Spec) (sz : BitVec 1)
  /-- `AMO_MAX` (R181). -/
  | amoMax (d a b : Spec) (sz : BitVec 1)
  /-- `AMO_MINU` (R181). -/
  | amoMinu (d a b : Spec) (sz : BitVec 1)
  /-- `AMO_MAXU` (R181). -/
  | amoMaxu (d a b : Spec) (sz : BitVec 1)
  /-- `AMO_FADD` (R181). -/
  | amoFadd (d a b : Spec) (sz : BitVec 1)
  /-- `RED_IADD32` (R183). -/
  | redIadd32 (a b : Spec)
  /-- `RED_IADD64` (R183). -/
  | redIadd64 (a b : Spec)
  /-- `RED_FADD32` (R183). -/
  | redFadd32 (a b : Spec)
  /-- `RED_FADDBF16` (R183). -/
  | redFaddbf16 (a b : Spec)
  /-- `RED_IMAX32` (R183). -/
  | redImax32 (a b : Spec)
  /-- `RED_IMIN32` (R183). -/
  | redImin32 (a b : Spec)
  /-- `RED_NMAX32` (R183). -/
  | redNmax32 (a b : Spec)
  /-- `RED_NMIN32` (R183). -/
  | redNmin32 (a b : Spec)
  /-- `RED_FMAX32` (R183). -/
  | redFmax32 (a b : Spec)
  /-- `RED_FMIN32` (R183). -/
  | redFmin32 (a b : Spec)
  /-- `RED_OR` (R183). -/
  | redOr (a b : Spec) (sz : BitVec 1)
  /-- `RED_AND` (R183). -/
  | redAnd (a b : Spec) (sz : BitVec 1)
  /-- `RED_XOR` (R183). -/
  | redXor (a b : Spec) (sz : BitVec 1)
  /-- `PF` (R185). -/
  | pf (a b : Spec) (off : BitVec 24)
  /-- `PF_L2` (R185). -/
  | pfL2 (a b : Spec) (off : BitVec 24)
  /-- `PF_POOL` (R185). -/
  | pfPool (a b : Spec) (off : BitVec 24)
  /-- `CWB` (R186). -/
  | cwb (a b : Spec) (off : BitVec 24)
  /-- `VLD` (R188). -/
  | vld (t : BitVec 4) (d a b : Spec) (off : BitVec 24)
  /-- `VST` (R188). -/
  | vst (t : BitVec 4) (d a b : Spec) (off : BitVec 24)
  /-- `VLDS` (R189). -/
  | vlds (t : BitVec 4) (k : Bool) (d a b : Spec)
  /-- `VSTS` (R189). -/
  | vsts (t : BitVec 4) (k : Bool) (d a b : Spec)
  /-- `VGTH` (R191). -/
  | vgth (t : BitVec 4) (sc : BitVec 2) (k : Bool) (d a b : Spec)
  /-- `VGTH_PROBE` (R192). -/
  | vgthProbe (t : BitVec 4) (sc : BitVec 2) (k : Bool) (d a b : Spec)
  /-- `VSCT` (R193). -/
  | vsct (t : BitVec 4) (sc : BitVec 2) (k : Bool) (d a b : Spec)
  /-- `VLDFF` (R194). -/
  | vldff (t : BitVec 4) (k : Bool) (d a b : Spec)
  /-- `VFAS` (R195). -/
  | vfas (t : BitVec 4) (k : Bool) (d a b : Spec)
  /-- `CPY` (R200). -/
  | cpy (hd hs : Bool) (dt st : BitVec 4) (scope : BitVec 3) (d a b cc : Spec)
  /-- `CPYG` (R201). -/
  | cpyg (hd hs : Bool) (dt st : BitVec 4) (scope : BitVec 3) (d a b cc : Spec)
  /-- `DRAIN` (R202). -/
  | drain (mx hd hs : Bool) (dt : BitVec 4) (scope : BitVec 3) (d a b : Spec)
  /-- `COLL_ARED` (R204). -/
  | collAred (op dt t : BitVec 4) (scope : BitVec 3) (d a b cc : Spec)
  /-- `COLL_BCAST` (R204). -/
  | collBcast (dt t : BitVec 4) (scope : BitVec 3) (d a b cc : Spec)
  /-- `COLL_AGTH` (R204). -/
  | collAgth (dt t : BitVec 4) (scope : BitVec 3) (d a b cc : Spec)
  /-- `COLL_RSCT` (R204). -/
  | collRsct (op dt t : BitVec 4) (scope : BitVec 3) (d a b cc : Spec)
  /-- `CADD` (R338). -/
  | cadd (scope : BitVec 3) (p : BitVec 5) (a b : Spec)
  /-- `CWAIT` (R339). -/
  | cwait (scope : BitVec 3) (a b : Spec)
  /-- `CWAITX` (R339). -/
  | cwaitx (scope : BitVec 3) (a b cc : Spec)
  /-- `WAIT` (R342). -/
  | wait (set : BitVec 5) (b : Spec)
  /-- `TNOW` (R344). -/
  | tnow (d : Spec)
  /-- `TAT` (R344). -/
  | tat (a : Spec)
  /-- `CTRD_OS` (R342). -/
  | ctrdOs (d : Spec) (set : BitVec 5)
  /-- `CTRD_ACT` (R349). -/
  | ctrdAct (d a b : Spec)
  /-- `VACQ` (R122). -/
  | vacq (d : Spec) (n : BitVec 4)
  /-- `VSETL` (R124). -/
  | vsetl (d a : Spec) (w : BitVec 2)
  /-- `VTAG` (R125). -/
  | vtag (d : Spec) (t : BitVec 4)
  /-- `VADD` (R131). -/
  | vadd (k : Bool) (d a b : Spec)
  /-- `VSUB` (R131). -/
  | vsub (k : Bool) (d a b : Spec)
  /-- `VMUL` (R131). -/
  | vmul (k : Bool) (d a b : Spec)
  /-- `VMULH` (R130). -/
  | vmulh (k : Bool) (d a b : Spec)
  /-- `VMIN` (R130). -/
  | vmin (k : Bool) (d a b : Spec)
  /-- `VMAX` (R130). -/
  | vmax (k : Bool) (d a b : Spec)
  /-- `VAND` (R132). -/
  | vand (k : Bool) (d a b : Spec)
  /-- `VOR` (R132). -/
  | vor (k : Bool) (d a b : Spec)
  /-- `VXOR` (R132). -/
  | vxor (k : Bool) (d a b : Spec)
  /-- `VSHL` (R130). -/
  | vshl (k : Bool) (d a b : Spec)
  /-- `VSHR` (R130). -/
  | vshr (k : Bool) (d a b : Spec)
  /-- `VSAR` (R130). -/
  | vsar (k : Bool) (d a b : Spec)
  /-- `VFMA` (R131). -/
  | vfma (k : Bool) (d a b cc : Spec)
  /-- `VABS` (R132). -/
  | vabs (k : Bool) (d a : Spec)
  /-- `VNEG` (R132). -/
  | vneg (k : Bool) (d a : Spec)
  /-- `VNOT` (R132). -/
  | vnot (k : Bool) (d a : Spec)
  /-- `VPOPC` (R130). -/
  | vpopc (k : Bool) (d a : Spec)
  /-- `VCLZ` (R130). -/
  | vclz (k : Bool) (d a : Spec)
  /-- `VEXP2` (R133). -/
  | vexp2 (k : Bool) (d a : Spec)
  /-- `VLOG2` (R133). -/
  | vlog2 (k : Bool) (d a : Spec)
  /-- `VRCP` (R133). -/
  | vrcp (k : Bool) (d a : Spec)
  /-- `VRSQRT` (R133). -/
  | vrsqrt (k : Bool) (d a : Spec)
  /-- `VSQRT` (R133). -/
  | vsqrt (k : Bool) (d a : Spec)
  /-- `VCMP_EQ` (R134). -/
  | vcmpEq (d a b : Spec)
  /-- `VCMP_NE` (R134). -/
  | vcmpNe (d a b : Spec)
  /-- `VCMP_LT` (R134). -/
  | vcmpLt (d a b : Spec)
  /-- `VCMP_LE` (R134). -/
  | vcmpLe (d a b : Spec)
  /-- `VCMP_GT` (R134). -/
  | vcmpGt (d a b : Spec)
  /-- `VCMP_GE` (R134). -/
  | vcmpGe (d a b : Spec)
  /-- `VCMP_UN` (R134). -/
  | vcmpUn (d a b : Spec)
  /-- `MPUSH` (R135). -/
  | mpush (d a : Spec)
  /-- `MINV` (R136). -/
  | minv (d : Spec)
  /-- `MPOP` (R136). -/
  | mpop (d : Spec)
  /-- `MSET` (R135). -/
  | mset (d a : Spec)
  /-- `MGET` (R137). -/
  | mget (t : BitVec 4) (d a : Spec)
  /-- `VSEL` (R138). -/
  | vsel (d a b : Spec)
  /-- `VMOV` (R139). -/
  | vmov (k : Bool) (d a : Spec)
  /-- `VBCAST` (R139). -/
  | vbcast (t : BitVec 4) (k : Bool) (d a : Spec)
  /-- `VIOTA` (R139). -/
  | viota (t : BitVec 4) (k : Bool) (d a : Spec)
  /-- `VPERM` (R140). -/
  | vperm (k : Bool) (d a b : Spec)
  /-- `VXCH` (R141). -/
  | vxch (k : Bool) (dist : BitVec 4) (d a : Spec)
  /-- `VSLIDE_UP` (R142). -/
  | vslideUp (k : Bool) (d a b : Spec)
  /-- `VSLIDE_DN` (R142). -/
  | vslideDn (k : Bool) (d a b : Spec)
  /-- `VRED_ADD` (R143). -/
  | vredAdd (k : Bool) (d a : Spec)
  /-- `VRED_MIN` (R143). -/
  | vredMin (k : Bool) (d a : Spec)
  /-- `VRED_MAX` (R143). -/
  | vredMax (k : Bool) (d a : Spec)
  /-- `VRED_AND` (R143). -/
  | vredAnd (k : Bool) (d a : Spec)
  /-- `VRED_OR` (R143). -/
  | vredOr (k : Bool) (d a : Spec)
  /-- `VRED_XOR` (R143). -/
  | vredXor (k : Bool) (d a : Spec)
  /-- `VSCAN_ADD` (R144). -/
  | vscanAdd (k : Bool) (d a : Spec)
  /-- `VSCAN_MIN` (R144). -/
  | vscanMin (k : Bool) (d a : Spec)
  /-- `VSCAN_MAX` (R144). -/
  | vscanMax (k : Bool) (d a : Spec)
  /-- `VSCAN_AND` (R144). -/
  | vscanAnd (k : Bool) (d a : Spec)
  /-- `VSCAN_OR` (R144). -/
  | vscanOr (k : Bool) (d a : Spec)
  /-- `VSCAN_XOR` (R144). -/
  | vscanXor (k : Bool) (d a : Spec)
  /-- `VCMPR` (R145). -/
  | vcmpr (n : BitVec 2) (d a b : Spec)
  /-- `VTOPK` (R146). -/
  | vtopk (k : Bool) (d a b cc : Spec)
  /-- `VCVT` (R147). -/
  | vcvt (t : BitVec 4) (k : Bool) (d a : Spec)
  /-- `VQNT` (R148). -/
  | vqnt (t : BitVec 4) (k : Bool) (d a b : Spec)
  /-- `VDQ` (R149). -/
  | vdq (t : BitVec 4) (k : Bool) (d a b : Spec)
  /-- `VLUT_G` (R150). -/
  | vlutG (g : BitVec 4) (k : Bool) (d a b cc : Spec)
  /-- `VLUT_J` (R151). -/
  | vlutJ (k : Bool) (d a : Spec)
  /-- `VLUT_Y` (R151). -/
  | vlutY (k : Bool) (d a b cc : Spec)
  /-- `MM` (R213). -/
  | mm (at_ bt ct : BitVec 4) (mxa mxb : Bool) (d a b : Spec)
  /-- `MMS` (R213). -/
  | mms (at_ bt ct : BitVec 4) (mxa mxb sp : Bool) (spn : BitVec 2) (d a b : Spec)
  /-- `MZERO` (R215). -/
  | mzero (t : BitVec 4) (d : Spec)
  /-- `MLD` (R215). -/
  | mld (d a : Spec)
  /-- `MST` (R215). -/
  | mst (d a : Spec)
  /-- `TPLN` (R210). -/
  | tpln (t : BitVec 4) (mx sp : Bool) (spn : BitVec 2) (d a b : Spec)
  /-- `TDEF` (R312). -/
  | tdef (mx : Bool) (d a : Spec)
  /-- `TFREE` (R313). -/
  | tfree (u : Bool) (d : Spec)
  /-- `TWAIT_R` (R314). -/
  | twaitR (d a : Spec)
  /-- `TWAIT_E` (R314). -/
  | twaitE (d a : Spec)
  /-- `TSTAT` (R315). -/
  | tstat (d a : Spec)
  /-- `TSETL` (R316). -/
  | tsetl (d a : Spec)
  /-- `TSETL_C` (R316). -/
  | tsetlC (d a b : Spec)
  /-- `TLBI_VA` (R305). -/
  | tlbiVa (a : Spec) (scope : BitVec 3)
  /-- `TLBI_ALL` (R305). -/
  | tlbiAll (scope : BitVec 3)
  /-- `HSET` (R319). -/
  | hset (d a b : Spec)
  /-- `HINV` (R320). -/
  | hinv (a : Spec)
  /-- `CBLD` (R281). -/
  | cbld (all : Bool) (scope : BitVec 3) (a cc : Spec)
  /-- `TBLD` (R287). -/
  | tbld (scope : BitVec 3) (d a b cc : Spec)
  /-- `LKAC` (R289). -/
  | lkac (scope : BitVec 3) (d a b cc : Spec)
  /-- `BPLD` (R290). -/
  | bpld (scope : BitVec 3) (d a b cc : Spec)
  /-- `BKST` (R289). -/
  | bkst (scope : BitVec 3) (d a b cc : Spec)
  /-- `KVGTH` (R328). -/
  | kvgth (v nr : Bool) (set : BitVec 4) (scope : BitVec 3) (d a b cc : Spec)
  /-- `KVAPP` (R330). -/
  | kvapp (st : BitVec 4) (fmt dc : BitVec 2) (scope : BitVec 3) (a b cc : Spec)
  /-- `SBIND_LD` (R255). -/
  | sbindLd (z : BitVec 3) (sx : Bool) (d a b cc : Spec)
  /-- `SBIND_ST` (R255). -/
  | sbindSt (z : BitVec 3) (sx : Bool) (d a b cc : Spec)
  /-- `SFREE` (R258). -/
  | sfree (d : Spec)
  /-- `B_ACT` (R294). -/
  | kAct (a : BitVec 3) (imm : BitVec 15)
  /-- `B_COL` (R294). -/
  | kCol (a : BitVec 3) (imm : BitVec 10)
  /-- `B_MRA` (R294). -/
  | kMra (a b cc : BitVec 3)
  /-- `B_ALOOP_R` (R294). -/
  | kAloopR (a : BitVec 3) (step : BitVec 7) (cnt : BitVec 3) (off : BitVec 10)
  /-- `B_ALOOP_I` (R294). -/
  | kAloopI (a : BitVec 3) (step : BitVec 7) (cnt : BitVec 5) (off : BitVec 10)
  /-- `B_AJMP` (R294). -/
  | kAjmp (off : BitVec 11)
  /-- `B_SQPOP` (R294). -/
  | kSqpop (a : BitVec 3)
  /-- `B_LK` (R295). -/
  | kLk (n : BitVec 3) (part : BitVec 2) (tb : BitVec 10) (bg : BitVec 4)
  /-- `B_LK_I` (R295). -/
  | kLkI (n : BitVec 3) (part : BitVec 2) (tb : BitVec 10) (bg : BitVec 4)
  /-- `B_LK_D` (R295). -/
  | kLkD (n : BitVec 3) (part : BitVec 2)
  /-- `B_LK_DN` (R295). -/
  | kLkDn (n : BitVec 3) (part : BitVec 2)
  /-- `B_ZCLR` (R295). -/
  | kZclr (n : BitVec 6) (cnt : BitVec 7)
  /-- `B_ZOUT` (R295). -/
  | kZout (n : BitVec 6) (cnt : BitVec 7)
  /-- `B_XLOOP_R` (R295). -/
  | kXloopR (p : BitVec 3) (off : BitVec 10)
  /-- `B_XLOOP_I` (R295). -/
  | kXloopI (cnt : BitVec 12) (off : BitVec 10)
  /-- `B_SQPUSH` (R295). -/
  | kSqpush (n : BitVec 6)
  /-- `ILLEGAL_OPCODE` (R57). -/
  | illegalOpcode (w : Word)
  /-- `UNASSIGNED_KERNEL_WORD` (R293). -/
  | unassignedKernelWord (w : BitVec 32)
  /-- `NOP` (R55). -/
  | nop
  /-- `YIELD` (R266). -/
  | yield
  /-- `DONE` (R265). -/
  | done
  /-- `VREL` (R123). -/
  | vrel
  /-- `HINV_PIN_RELEASE` (R320). -/
  | hinvPinRelease (slot : Nat) (sd : Side)
  /-- `B_PRE` (R294). -/
  | kPre
  /-- `B_AEND` (R294). -/
  | kAend
  /-- `B_IQPOP` (R295). -/
  | kIqpop
  /-- `B_XEND` (R295). -/
  | kXend
  /-- `BANK_COMMAND_START` (R286). -/
  | bankCommandStart (stack : Nat)
  /-- `CODEBOOK_WRITE` (R297). -/
  | codebookWrite (die : Nat)
  /-- `WAVE_START` (R291). -/
  | waveStart (die : Nat)
  /-- `WAVE_END` (R291). -/
  | waveEnd (die : Nat)
  /-- `BANK_COMMAND_RETIRE` (R286). -/
  | bankCommandRetire (id : Nat)
  /-- `ENGINE_COMMAND_COMPLETE` (R196). -/
  | engineCommandComplete (id : Nat)
  /-- `LOAD_STREAM_FILL` (R256). -/
  | loadStreamFill (slot q : Nat)
  /-- `STORE_STREAM_WRITE` (R257). -/
  | storeStreamWrite (slot q : Nat)
  /-- `REGISTER_CACHE_FILL` (R84). -/
  | registerCacheFill (slot : Nat)
  /-- `WRITE_THROUGH` (R235). -/
  | writeThrough (id : Nat)
  /-- `READ_SHARED` (R238). -/
  | readShared (cache line : Nat)
  /-- `READ_OWN` (R238). -/
  | readOwn (line : Nat) (owner : Owner)
  /-- `FACET_REQUEST` (R241). -/
  | facetRequest (core line : Nat) (tag : BitVec 4)
  /-- `PARTIAL_PARK` (R243). -/
  | partialPark (core line : Nat)
  /-- `EVICTION_NOTICE` (R236). -/
  | evictionNotice (cache line : Nat)
  /-- `RDSHARED` (R249). -/
  | rdShared (req : HostReq)
  /-- `RDOWN` (R249). -/
  | rdOwn (req : HostReq)
  /-- `RDCUR` (R249). -/
  | rdCur (req : HostReq)
  /-- `WRLINE` (R249). -/
  | wrLine (req : HostReq) (mask : BitVec 128) (data : BitVec 1024)
  /-- `INVAL` (R248). -/
  | inval (line : Nat)
  /-- `INVACK` (R249). -/
  | invAck (line : Nat)
  /-- `DATA` (R247). -/
  | data (tag : Nat) (bytes : BitVec 1024) (ps : Bool)
  /-- `WBOWN` (R249). -/
  | wbOwn (line : Nat) (bytes : BitVec 1024)
  /-- `RECALL` (R249). -/
  | recall (line : Nat)
  /-- `ATOMIC` (R249). -/
  | atomic (req : HostReq) (op : AtomicOp) (sz : BitVec 2) (b cc : BitVec 128)
  /-- `ATOMICRSP` (R247). -/
  | atomicRsp (tag : Nat) (old : BitVec 128)
  /-- `CMP` (R248). -/
  | cmp (tag : Nat) (denied : Bool)
  /-- `RESERVED_CODE_FRAME` (R247). -/
  | reservedCodeFrame (link : Nat)
  /-- `ATTREQ` (R373). -/
  | attReq (nonce : BitVec 512) (k : Bool) (tag : Nat)
  /-- `PARTCFG` (R367). -/
  | partCfg (rec : BitVec 1280) (tag : Nat)
  /-- `HALTRELEASE` (R362). -/
  | haltRelease (part : BitVec 4) (tag : Nat)
  /-- `SWWRITE` (R375). -/
  | swWrite (num : BitVec 12) (target : Nat) (value : Word) (tag : Nat)
  /-- `TELREQ` (R382). -/
  | telReq (readings : List Byte) (tag : Nat)
  /-- `RD` (R376). -/
  | rd (req : BftReq) (len : Nat)
  /-- `WR` (R376). -/
  | wr (req : BftReq) (mask : BitVec 128) (data : BitVec 1024)
  /-- `BFT_ATOMIC` (R376). -/
  | bftAtomic (req : BftReq) (op : AtomicOp) (sz : BitVec 2) (b cc : BitVec 128)
  /-- `CTRADD` (R376). -/
  | ctrAdd (req : BftReq) (inc : Word)
  /-- `CTRWAIT` (R339). -/
  | ctrWait (req : BftReq) (target : Word)
  /-- `RSP` (R376). -/
  | rsp (tag : Nat) (bytes : BitVec 1024) (denied ps : Bool)
  /-- `CTRWAKE` (R339). -/
  | ctrWake (tag : Nat) (value : Word)
  /-- `COLL` (R204). -/
  | coll (part : BitVec 4) (gtag seq : BitVec 32) (rank : Nat) (shape : CollShape) (bytes : List Byte)
  /-- `IEEE_1588_MESSAGE` (R377). -/
  | ieee1588Message (m : ClockMsg)
  /-- `PFC_PAUSE` (R278). -/
  | pfcPause (link cls : Nat) (on : Bool)
  /-- `RETRANSMIT_TIMEOUT` (R375). -/
  | retransmitTimeout (link : Nat)
  /-- `TRANSPORT_TIMEOUT` (R375). -/
  | transportTimeout (tag : Nat)
  /-- `PORT_STATE_CHANGE` (R375). -/
  | portStateChange (link : Nat) (up : Bool)
  /-- `LINK_FAILURE` (R378). -/
  | linkFailure (link : Nat)
  /-- `HOST_COUNTER_POLL` (R339). -/
  | hostCounterPoll (cluster cid : Nat) (sd : Side)
  /-- `CWAIT_SATISFIED` (R339). -/
  | cwaitSatisfied (cluster cid : Nat) (sd : Side)
  /-- `REFRESH` (R162). -/
  | refresh (bank grp : Nat)
  /-- `REFRESH_TEMP_SAMPLE` (R162). -/
  | refreshTempSample (stack : Nat) (t0 t1 : Int)
  /-- `REFRESH_MANAGEMENT` (R346). -/
  | refreshManagement (bank : Nat)
  /-- `ALERT_WINDOW_RESET` (R347). -/
  | alertWindowReset
  /-- `PATROL_SCRUB` (R165). -/
  | patrolScrub (line : Nat) (bad : Bool)
  /-- `THROTTLE_SAMPLE` (R383). -/
  | throttleSample (die : Nat) (sensor : BitVec 4) (temp : Int)
  /-- `BANK_BAND_SAMPLE` (R384). -/
  | bankBandSample (die : Nat) (sensor : BitVec 6) (temp : Int)
  /-- `NOC_CLOCK_SAMPLE` (R380). -/
  | nocClockSample (die occ : Nat)
  /-- `POWER_ON` (R371). -/
  | powerOn (firmware microcode : List Byte) (node : BitVec 11) (time : Word)
  /-- `SERVICE_LEVEL_CHANGE` (R370). -/
  | serviceLevelChange (level : BitVec 2)
  /-- `WINDOW_ENTRY` (R268). -/
  | windowEntry (cluster : Nat)
  /-- `LAUNCH_TIME` (R272). -/
  | launchTime (cluster task : Nat)
  /-- `TIMED_PREPARE` (R272). -/
  | timedPrepare (cluster task : Nat)
  /-- `PRIORITY_AGING` (R273). -/
  | priorityAging (cluster task : Nat)
  /-- `DISPATCH` (R273). -/
  | dispatch (slot : Nat)
  /-- `PREEMPTION_REQUEST` (R275). -/
  | preemptionRequest (cluster task slot : Nat)
  /-- `STAGING_COMPLETE` (R89). -/
  | stagingComplete (slot : Nat)
  /-- `SWAP` (R90). -/
  | swap (slot : Nat)
  /-- `SPILL_COMPLETE` (R365). -/
  | spillComplete (slot : Nat)
  /-- `TASK_COMPLETE` (R270). -/
  | taskComplete (cluster task : Nat)
  /-- `ITERATION_WATCHDOG` (R363). -/
  | iterationWatchdog (slot : Nat)
  /-- `HALT_COMPLETE` (R353). -/
  | haltComplete (part : BitVec 4)
  /-- `INSTRUCTION_FETCH_FAULT` (R58). -/
  | instructionFetchFault
  /-- `MATRIX_INSTRUCTION_COMPLETE` (R207). -/
  | matrixInstructionComplete (core : Nat)
  /-- `TIME_BASE_REACHED` (R344). -/
  | timeBaseReached (slot : Nat) (sd : Side)
  /-- `SATURATION_WINDOW_START` (R350). -/
  | saturationWindowStart (slot : Nat)
  /-- `DISJ_COPY_EVICTION` (R238). -/
  | disjCopyEviction (core line : Nat)
  /-- `LINK_RETRY` (R378). -/
  | linkRetry (link : EdgeModule) (failed : Bool)
  deriving DecidableEq, Repr, Inhabited

end Sys2Proof
end

