-- ==== Sys2Proof/WellFormed.lean ====
section
/-!
DEFINITION. Well-formed instructions: what the fields of an instruction word can hold beside their widths (R49, R50, R57,
Table 3.1 to 3.4), and the sequencers a group is permitted on (R54). The steps of the device's other agents are no words.
-/

namespace Sys2Proof

/-- The bytes Table 3.2 reserves; the reserved indices 6 and 7 of `k` keep their class. -/
def reservedByte (b : BitVec 8) : Bool :=
  let g := b.extractLsb' 3 3
  decide (b.extractLsb' 6 2 = 1) &&
    ((decide (g = 1) && b.getLsbD 2) || (decide (g = 2) && b.getLsbD 2) ||
      (decide (g = 4) && decide (b.extractLsb' 1 2 ≠ 0)) || (decide (g = 5) && decide (b.extractLsb' 1 2 ≠ 0)) ||
      (decide (g = 6) && decide (b.extractLsb' 1 2 ≠ 0)) || decide (g = 7))

/-- A reserved specifier holds a byte that names nothing. -/
def Spec.ok : Spec → Bool
  | .reserved b => reservedByte b
  | _ => true

/-- What kind of thing a constructor is: a 64-bit word of a sequencer, with its major opcode; a 32-bit kernel word; a step
of another agent. -/
inductive InstrKind where
  | word (op : BitVec 8) | kernel | step
  deriving DecidableEq, Repr, Inhabited

/-- The kind of each instruction, and the major opcode of Table 3.3. -/
def Instr.kind : Instr → InstrKind
  | .sget .. | .sset .. | .live .. | .trap .. | .brk .. => .word 0x01
  | .fence .. => .word 0x02
  | .add .. | .sub .. | .and .. | .or .. | .xor .. | .shl .. | .shr .. | .sar .. | .mul .. | .mulh ..
  | .mulhu .. | .div .. | .divu .. | .mod .. | .modu .. | .min .. | .max .. | .minu .. | .maxu .. | .slt ..
  | .sltu .. | .seq .. | .clz .. | .ctz .. | .popc .. | .mv .. | .sext .. | .zext .. => .word 0x08
  | .addi .. | .andi .. | .ori .. | .xori .. | .shli .. | .shri .. | .sari .. => .word 0x09
  | .li .. | .lih .. => .word 0x0a
  | .fadd .. | .fsub .. | .fmul .. | .ffma .. | .fmin .. | .fmax .. | .fcmpEq .. | .fcmpLt .. | .fcmpLe ..
  | .fcmpUn .. | .fcvt .. => .word 0x0b
  | .bEq .. | .bNe .. | .bLt .. | .bGe .. | .bLtu .. | .bGeu .. => .word 0x10
  | .jal .. | .jr .. => .word 0x11
  | .loop .. | .sbr .. => .word 0x12
  | .boutEq .. | .boutNe .. | .boutLt .. | .boutGe .. | .boutLtu .. | .boutGeu .. | .bin .. | .bmz .. => .word 0x13
  | .post .. | .postC .. => .word 0x14
  | .ld .. | .ldS .. | .ldNt .. | .ldKeep .. => .word 0x20
  | .st .. | .stNt .. | .stKeep .. => .word 0x21
  | .amoSwap .. | .amoCas .. | .amoAdd .. | .amoAnd .. | .amoOr .. | .amoXor .. | .amoMin .. | .amoMax ..
  | .amoMinu .. | .amoMaxu .. | .amoFadd .. => .word 0x22
  | .redIadd32 .. | .redIadd64 .. | .redFadd32 .. | .redFaddbf16 .. | .redImax32 .. | .redImin32 ..
  | .redNmax32 .. | .redNmin32 .. | .redFmax32 .. | .redFmin32 .. | .redOr .. | .redAnd .. | .redXor .. => .word 0x23
  | .pf .. | .pfL2 .. | .pfPool .. | .cwb .. => .word 0x24
  | .vld .. | .vst .. | .vlds .. | .vsts .. => .word 0x28
  | .vgth .. | .vgthProbe .. | .vsct .. | .vldff .. => .word 0x29
  | .vfas .. => .word 0x2b
  | .cpy .. | .cpyg .. | .drain .. => .word 0x30
  | .collAred .. | .collBcast .. | .collAgth .. | .collRsct .. => .word 0x31
  | .cadd .. | .cwait .. | .cwaitx .. | .wait .. | .tnow .. | .tat .. | .ctrdOs .. | .ctrdAct .. => .word 0x38
  | .vacq .. | .vsetl .. | .vtag .. => .word 0x40
  | .vadd .. | .vsub .. | .vmul .. | .vmulh .. | .vmin .. | .vmax .. | .vand .. | .vor .. | .vxor ..
  | .vshl .. | .vshr .. | .vsar .. => .word 0x41
  | .vfma .. => .word 0x42
  | .vabs .. | .vneg .. | .vnot .. | .vpopc .. | .vclz .. | .vexp2 .. | .vlog2 .. | .vrcp .. | .vrsqrt ..
  | .vsqrt .. => .word 0x43
  | .vcmpEq .. | .vcmpNe .. | .vcmpLt .. | .vcmpLe .. | .vcmpGt .. | .vcmpGe .. | .vcmpUn .. | .mpush ..
  | .minv .. | .mpop .. | .mset .. | .mget .. | .vsel .. => .word 0x44
  | .vmov .. | .vbcast .. | .viota .. | .vperm .. | .vxch .. | .vslideUp .. | .vslideDn .. => .word 0x45
  | .vredAdd .. | .vredMin .. | .vredMax .. | .vredAnd .. | .vredOr .. | .vredXor .. | .vscanAdd ..
  | .vscanMin .. | .vscanMax .. | .vscanAnd .. | .vscanOr .. | .vscanXor .. => .word 0x46
  | .vcmpr .. | .vtopk .. => .word 0x47
  | .vcvt .. | .vqnt .. | .vdq .. | .vlutG .. | .vlutJ .. | .vlutY .. => .word 0x48
  | .mm .. | .mms .. => .word 0x50
  | .mzero .. | .mld .. | .mst .. => .word 0x51
  | .tpln .. => .word 0x52
  | .tdef .. | .tfree .. | .twaitR .. | .twaitE .. | .tstat .. | .tsetl .. | .tsetlC .. => .word 0x58
  | .tlbiVa .. | .tlbiAll .. | .hset .. | .hinv .. => .word 0x59
  | .cbld .. | .tbld .. | .lkac .. | .bpld .. | .bkst .. => .word 0x60
  | .kvgth .. | .kvapp .. => .word 0x2a
  | .sbindLd .. | .sbindSt .. | .sfree .. => .word 0x68
  | .kAct .. | .kCol .. | .kMra .. | .kAloopR .. | .kAloopI .. | .kAjmp .. | .kSqpop .. | .kLk .. | .kLkI ..
  | .kLkD .. | .kLkDn .. | .kZclr .. | .kZout .. | .kXloopR .. | .kXloopI .. | .kSqpush .. => .kernel
  | .illegalOpcode .. | .unassignedKernelWord .. => .step
  | .nop => .word 0x01
  | .yield | .done => .word 0x14
  | .vrel => .word 0x40
  | .hinvPinRelease .. => .step
  | .kPre | .kAend | .kIqpop | .kXend => .kernel
  | .bankCommandStart .. | .codebookWrite .. | .waveStart .. | .waveEnd .. | .bankCommandRetire ..
  | .engineCommandComplete .. | .loadStreamFill .. | .storeStreamWrite .. | .registerCacheFill ..
  | .writeThrough .. | .readShared .. | .readOwn .. | .facetRequest .. | .partialPark .. | .evictionNotice ..
  | .rdShared .. | .rdOwn .. | .rdCur .. | .wrLine .. | .inval .. | .invAck .. | .data .. | .wbOwn ..
  | .recall .. | .atomic .. | .atomicRsp .. | .cmp .. | .reservedCodeFrame .. | .attReq .. | .partCfg ..
  | .haltRelease .. | .swWrite .. | .telReq .. | .rd .. | .wr .. | .bftAtomic .. | .ctrAdd .. | .ctrWait ..
  | .rsp .. | .ctrWake .. | .coll .. | .ieee1588Message .. | .pfcPause .. | .retransmitTimeout ..
  | .transportTimeout .. | .portStateChange .. | .linkFailure .. | .hostCounterPoll .. | .cwaitSatisfied ..
  | .refresh .. | .refreshTempSample .. | .refreshManagement .. | .alertWindowReset | .patrolScrub ..
  | .throttleSample .. | .bankBandSample .. | .nocClockSample .. | .powerOn .. | .serviceLevelChange ..
  | .windowEntry .. | .launchTime .. | .timedPrepare .. | .priorityAging .. | .dispatch ..
  | .preemptionRequest .. | .stagingComplete .. | .swap .. | .spillComplete .. | .taskComplete ..
  | .iterationWatchdog .. | .haltComplete .. | .instructionFetchFault | .matrixInstructionComplete ..
  | .timeBaseReached .. | .saturationWindowStart .. | .disjCopyEviction .. | .linkRetry .. => .step

/-- The specifiers of a word, in the order D, A, B, C. -/
def Instr.specs : Instr → List Spec
  | .sget d _ => [d]
  | .sset _ a => [a]
  | .add d a b => [d, a, b]
  | .sub d a b => [d, a, b]
  | .and d a b => [d, a, b]
  | .or d a b => [d, a, b]
  | .xor d a b => [d, a, b]
  | .shl d a b => [d, a, b]
  | .shr d a b => [d, a, b]
  | .sar d a b => [d, a, b]
  | .mul d a b => [d, a, b]
  | .mulh d a b => [d, a, b]
  | .mulhu d a b => [d, a, b]
  | .div d a b => [d, a, b]
  | .divu d a b => [d, a, b]
  | .mod d a b => [d, a, b]
  | .modu d a b => [d, a, b]
  | .min d a b => [d, a, b]
  | .max d a b => [d, a, b]
  | .minu d a b => [d, a, b]
  | .maxu d a b => [d, a, b]
  | .slt d a b => [d, a, b]
  | .sltu d a b => [d, a, b]
  | .seq d a b => [d, a, b]
  | .clz d a => [d, a]
  | .ctz d a => [d, a]
  | .popc d a => [d, a]
  | .mv d a => [d, a]
  | .sext d a _ => [d, a]
  | .zext d a _ => [d, a]
  | .addi d a _ => [d, a]
  | .andi d a _ => [d, a]
  | .ori d a _ => [d, a]
  | .xori d a _ => [d, a]
  | .shli d a _ => [d, a]
  | .shri d a _ => [d, a]
  | .sari d a _ => [d, a]
  | .li d _ => [d]
  | .lih d a _ => [d, a]
  | .fadd d a b => [d, a, b]
  | .fsub d a b => [d, a, b]
  | .fmul d a b => [d, a, b]
  | .ffma d a b cc => [d, a, b, cc]
  | .fmin d a b => [d, a, b]
  | .fmax d a b => [d, a, b]
  | .fcmpEq d a b => [d, a, b]
  | .fcmpLt d a b => [d, a, b]
  | .fcmpLe d a b => [d, a, b]
  | .fcmpUn d a b => [d, a, b]
  | .fcvt d a _ _ => [d, a]
  | .bEq a b _ => [a, b]
  | .bNe a b _ => [a, b]
  | .bLt a b _ => [a, b]
  | .bGe a b _ => [a, b]
  | .bLtu a b _ => [a, b]
  | .bGeu a b _ => [a, b]
  | .jal d _ => [d]
  | .jr d a => [d, a]
  | .loop n _ _ => [n]
  | .boutEq d a b => [d, a, b]
  | .boutNe d a b => [d, a, b]
  | .boutLt d a b => [d, a, b]
  | .boutGe d a b => [d, a, b]
  | .boutLtu d a b => [d, a, b]
  | .boutGeu d a b => [d, a, b]
  | .bin a _ => [a]
  | .bmz a _ => [a]
  | .post d a => [d, a]
  | .postC d a b => [d, a, b]
  | .ld _ d a b _ => [d, a, b]
  | .ldS _ d a b _ => [d, a, b]
  | .ldNt _ d a b _ => [d, a, b]
  | .ldKeep _ d a b _ => [d, a, b]
  | .st _ d a b _ => [d, a, b]
  | .stNt _ d a b _ => [d, a, b]
  | .stKeep _ d a b _ => [d, a, b]
  | .amoSwap d a b _ => [d, a, b]
  | .amoCas d a b cc _ => [d, a, b, cc]
  | .amoAdd d a b _ => [d, a, b]
  | .amoAnd d a b _ => [d, a, b]
  | .amoOr d a b _ => [d, a, b]
  | .amoXor d a b _ => [d, a, b]
  | .amoMin d a b _ => [d, a, b]
  | .amoMax d a b _ => [d, a, b]
  | .amoMinu d a b _ => [d, a, b]
  | .amoMaxu d a b _ => [d, a, b]
  | .amoFadd d a b _ => [d, a, b]
  | .redIadd32 a b => [a, b]
  | .redIadd64 a b => [a, b]
  | .redFadd32 a b => [a, b]
  | .redFaddbf16 a b => [a, b]
  | .redImax32 a b => [a, b]
  | .redImin32 a b => [a, b]
  | .redNmax32 a b => [a, b]
  | .redNmin32 a b => [a, b]
  | .redFmax32 a b => [a, b]
  | .redFmin32 a b => [a, b]
  | .redOr a b _ => [a, b]
  | .redAnd a b _ => [a, b]
  | .redXor a b _ => [a, b]
  | .pf a b _ => [a, b]
  | .pfL2 a b _ => [a, b]
  | .pfPool a b _ => [a, b]
  | .cwb a b _ => [a, b]
  | .vld _ d a b _ => [d, a, b]
  | .vst _ d a b _ => [d, a, b]
  | .vlds _ _ d a b => [d, a, b]
  | .vsts _ _ d a b => [d, a, b]
  | .vgth _ _ _ d a b => [d, a, b]
  | .vgthProbe _ _ _ d a b => [d, a, b]
  | .vsct _ _ _ d a b => [d, a, b]
  | .vldff _ _ d a b => [d, a, b]
  | .vfas _ _ d a b => [d, a, b]
  | .cpy _ _ _ _ _ d a b cc => [d, a, b, cc]
  | .cpyg _ _ _ _ _ d a b cc => [d, a, b, cc]
  | .drain _ _ _ _ _ d a b => [d, a, b]
  | .collAred _ _ _ _ d a b cc => [d, a, b, cc]
  | .collBcast _ _ _ d a b cc => [d, a, b, cc]
  | .collAgth _ _ _ d a b cc => [d, a, b, cc]
  | .collRsct _ _ _ _ d a b cc => [d, a, b, cc]
  | .cadd _ _ a b => [a, b]
  | .cwait _ a b => [a, b]
  | .cwaitx _ a b cc => [a, b, cc]
  | .wait _ b => [b]
  | .tnow d => [d]
  | .tat a => [a]
  | .ctrdOs d _ => [d]
  | .ctrdAct d a b => [d, a, b]
  | .vacq d _ => [d]
  | .vsetl d a _ => [d, a]
  | .vtag d _ => [d]
  | .vadd _ d a b => [d, a, b]
  | .vsub _ d a b => [d, a, b]
  | .vmul _ d a b => [d, a, b]
  | .vmulh _ d a b => [d, a, b]
  | .vmin _ d a b => [d, a, b]
  | .vmax _ d a b => [d, a, b]
  | .vand _ d a b => [d, a, b]
  | .vor _ d a b => [d, a, b]
  | .vxor _ d a b => [d, a, b]
  | .vshl _ d a b => [d, a, b]
  | .vshr _ d a b => [d, a, b]
  | .vsar _ d a b => [d, a, b]
  | .vfma _ d a b cc => [d, a, b, cc]
  | .vabs _ d a => [d, a]
  | .vneg _ d a => [d, a]
  | .vnot _ d a => [d, a]
  | .vpopc _ d a => [d, a]
  | .vclz _ d a => [d, a]
  | .vexp2 _ d a => [d, a]
  | .vlog2 _ d a => [d, a]
  | .vrcp _ d a => [d, a]
  | .vrsqrt _ d a => [d, a]
  | .vsqrt _ d a => [d, a]
  | .vcmpEq d a b => [d, a, b]
  | .vcmpNe d a b => [d, a, b]
  | .vcmpLt d a b => [d, a, b]
  | .vcmpLe d a b => [d, a, b]
  | .vcmpGt d a b => [d, a, b]
  | .vcmpGe d a b => [d, a, b]
  | .vcmpUn d a b => [d, a, b]
  | .mpush d a => [d, a]
  | .minv d => [d]
  | .mpop d => [d]
  | .mset d a => [d, a]
  | .mget _ d a => [d, a]
  | .vsel d a b => [d, a, b]
  | .vmov _ d a => [d, a]
  | .vbcast _ _ d a => [d, a]
  | .viota _ _ d a => [d, a]
  | .vperm _ d a b => [d, a, b]
  | .vxch _ _ d a => [d, a]
  | .vslideUp _ d a b => [d, a, b]
  | .vslideDn _ d a b => [d, a, b]
  | .vredAdd _ d a => [d, a]
  | .vredMin _ d a => [d, a]
  | .vredMax _ d a => [d, a]
  | .vredAnd _ d a => [d, a]
  | .vredOr _ d a => [d, a]
  | .vredXor _ d a => [d, a]
  | .vscanAdd _ d a => [d, a]
  | .vscanMin _ d a => [d, a]
  | .vscanMax _ d a => [d, a]
  | .vscanAnd _ d a => [d, a]
  | .vscanOr _ d a => [d, a]
  | .vscanXor _ d a => [d, a]
  | .vcmpr _ d a b => [d, a, b]
  | .vtopk _ d a b cc => [d, a, b, cc]
  | .vcvt _ _ d a => [d, a]
  | .vqnt _ _ d a b => [d, a, b]
  | .vdq _ _ d a b => [d, a, b]
  | .vlutG _ _ d a b cc => [d, a, b, cc]
  | .vlutJ _ d a => [d, a]
  | .vlutY _ d a b cc => [d, a, b, cc]
  | .mm _ _ _ _ _ d a b => [d, a, b]
  | .mms _ _ _ _ _ _ _ d a b => [d, a, b]
  | .mzero _ d => [d]
  | .mld d a => [d, a]
  | .mst d a => [d, a]
  | .tpln _ _ _ _ d a b => [d, a, b]
  | .tdef _ d a => [d, a]
  | .tfree _ d => [d]
  | .twaitR d a => [d, a]
  | .twaitE d a => [d, a]
  | .tstat d a => [d, a]
  | .tsetl d a => [d, a]
  | .tsetlC d a b => [d, a, b]
  | .tlbiVa a _ => [a]
  | .hset d a b => [d, a, b]
  | .hinv a => [a]
  | .cbld _ _ a cc => [a, cc]
  | .tbld _ d a b cc => [d, a, b, cc]
  | .lkac _ d a b cc => [d, a, b, cc]
  | .bpld _ d a b cc => [d, a, b, cc]
  | .bkst _ d a b cc => [d, a, b, cc]
  | .kvgth _ _ _ _ d a b cc => [d, a, b, cc]
  | .kvapp _ _ _ _ a b cc => [a, b, cc]
  | .sbindLd _ _ d a b cc => [d, a, b, cc]
  | .sbindSt _ _ d a b cc => [d, a, b, cc]
  | .sfree d => [d]
  | .live .. | .trap .. | .brk .. | .fence .. | .sbr .. | .tlbiAll .. | .kAct .. | .kCol .. | .kMra ..
  | .kAloopR .. | .kAloopI .. | .kAjmp .. | .kSqpop .. | .kLk .. | .kLkI .. | .kLkD .. | .kLkDn .. | .kZclr ..
  | .kZout .. | .kXloopR .. | .kXloopI .. | .kSqpush .. | .illegalOpcode .. | .unassignedKernelWord .. | .nop
  | .yield | .done | .vrel | .hinvPinRelease .. | .kPre | .kAend | .kIqpop | .kXend | .bankCommandStart ..
  | .codebookWrite .. | .waveStart .. | .waveEnd .. | .bankCommandRetire .. | .engineCommandComplete ..
  | .loadStreamFill .. | .storeStreamWrite .. | .registerCacheFill .. | .writeThrough .. | .readShared ..
  | .readOwn .. | .facetRequest .. | .partialPark .. | .evictionNotice .. | .rdShared .. | .rdOwn ..
  | .rdCur .. | .wrLine .. | .inval .. | .invAck .. | .data .. | .wbOwn .. | .recall .. | .atomic ..
  | .atomicRsp .. | .cmp .. | .reservedCodeFrame .. | .attReq .. | .partCfg .. | .haltRelease .. | .swWrite ..
  | .telReq .. | .rd .. | .wr .. | .bftAtomic .. | .ctrAdd .. | .ctrWait .. | .rsp .. | .ctrWake .. | .coll ..
  | .ieee1588Message .. | .pfcPause .. | .retransmitTimeout .. | .transportTimeout .. | .portStateChange ..
  | .linkFailure .. | .hostCounterPoll .. | .cwaitSatisfied .. | .refresh .. | .refreshTempSample ..
  | .refreshManagement .. | .alertWindowReset | .patrolScrub .. | .throttleSample .. | .bankBandSample ..
  | .nocClockSample .. | .powerOn .. | .serviceLevelChange .. | .windowEntry .. | .launchTime ..
  | .timedPrepare .. | .priorityAging .. | .dispatch .. | .preemptionRequest .. | .stagingComplete ..
  | .swap .. | .spillComplete .. | .taskComplete .. | .iterationWatchdog .. | .haltComplete ..
  | .instructionFetchFault | .matrixInstructionComplete .. | .timeBaseReached .. | .saturationWindowStart ..
  | .disjCopyEviction .. | .linkRetry .. => []

/-- The element types a unit-stride vector access can name, with the size code each has in FN (R188). -/
def widthCode (t : BitVec 4) : BitVec 3 :=
  match t.toNat with
  | 3 | 4 | 11 | 12 => 1
  | 5 | 6 | 13 => 2
  | 7 => 3
  | 8 => 4
  | _ => 0

def unitType (t : BitVec 4) : Bool := decide (t ≠ 0) && decide (t ≠ 15)

/-- `sbr` holds 0 in the fields beyond its advanced count, and in all of them under NA (R48). -/
def sbrFields (r1 r2 r3 r4 : BitVec 5) (n : BitVec 2) (na : Bool) : Bool :=
  (!na || (decide (r1 = 0) && decide (n = 0))) && (decide (0 < n.toNat) || decide (r2 = 0)) &&
    (decide (1 < n.toNat) || decide (r3 = 0)) && (decide (2 < n.toNat) || decide (r4 = 0))

/-- The fields that are reserved under another field's value. -/
def Instr.fieldsOk : Instr → Bool
  | .sbr _ r1 r2 r3 r4 n na _ _ => sbrFields r1 r2 r3 r4 n na
  | .ldS z _ _ _ _ => decide (z ≠ 3)
  | .vld t .. | .vst t .. => unitType t
  | .kvgth v nr set .. => !(v && nr) && (!(v || nr) || decide (set = 0))
  | .cpy hd hs _ _ _ _ _ _ cc => hd || hs || decide (cc = .x false 0)
  | .drain mx _ _ _ _ _ _ b => mx || decide (b = .x false 0)
  | .mms _ _ _ _ _ sp spn _ _ _ => sp || decide (spn = 0)
  | .tpln _ _ sp spn _ _ b => sp || (decide (spn = 0) && decide (b = .x false 0))
  | _ => true

/-- A well-formed instruction: one that some word encodes, or a step. -/
def Instr.wf (i : Instr) : Bool := i.specs.all Spec.ok && i.fieldsOk

/-- The sequencers a group is permitted on (Table 3.3); a kernel word and a step run on none. -/
def groupOn (sd : Side) (op fn : BitVec 8) : Bool :=
  if (0x40 ≤ op.toNat && op.toNat ≤ 0x52) || op = 0x2B then decide (sd = .x)
  else if op = 0x13 then decide (sd = (if fn.toNat < 8 then Side.a else .x))
  else true

end Sys2Proof
end

