-- ==== Sys2Proof/Decode.lean ====
section
/-!
DEFINITION. Decoding. The decoder is total: a 64-bit word is an instruction of its sequencer or ILLEGAL_OPCODE (R48 to
R57), a 32-bit word is a kernel instruction or none (R293). The encoder after it is written from the same tables.
-/

namespace Sys2Proof

/-! ### The word and its fields (R48, Table 3.1) -/

/-- The fields of F-R; the other formats join some of them. -/
structure Raw where
  op : BitVec 8
  fn : BitVec 8
  d : BitVec 8
  a : BitVec 8
  b : BitVec 8
  c : BitVec 8
  m : BitVec 16
  deriving DecidableEq, Repr, Inhabited

def rawOf (w : Word) : Raw :=
  ⟨w.extractLsb' 56 8, w.extractLsb' 48 8, w.extractLsb' 40 8, w.extractLsb' 32 8, w.extractLsb' 24 8,
    w.extractLsb' 16 8, w.extractLsb' 0 16⟩

/-- imm32 of F-I, F-J and F-L, the offset of F-M, bits [47:0] of F-S and F-Y. -/
def rawImm (r : Raw) : BitVec 32 := r.b ++ r.c ++ r.m
def rawOff (r : Raw) : BitVec 24 := r.c ++ r.m
def rawBits (r : Raw) : BitVec 48 := r.d ++ r.a ++ r.b ++ r.c ++ r.m

/-- `n` bits of a field from bit `lo` up. -/
def fld {w : Nat} (m : BitVec w) (lo n : Nat) : BitVec n := m.extractLsb' lo n

/-- The specifier a byte names (R50, Table 3.2). -/
def specOf (b : BitVec 8) : Spec :=
  if b.extractLsb' 6 2 = 0 then .x (b.getLsbD 5) (b.extractLsb' 0 5)
  else if b.extractLsb' 6 2 = 2 then (if b.getLsbD 5 then .t (b.extractLsb' 0 5) else .v (b.extractLsb' 0 5))
  else if b.extractLsb' 6 2 = 3 then .imm (b.extractLsb' 0 6)
  else if reservedByte b then .reserved b
  else
    match (b.extractLsb' 3 3).toNat with
    | 0 => .o (b.extractLsb' 0 3)
    | 1 => .l (b.extractLsb' 0 2)
    | 2 => .q (b.extractLsb' 0 2)
    | 3 => .k (b.extractLsb' 0 3)
    | 4 => .w (b.extractLsb' 0 1)
    | 5 => .acc (b.extractLsb' 0 1)
    | _ => if b.getLsbD 0 then .m else .bq

def rawD (r : Raw) : Spec := specOf r.d
def rawA (r : Raw) : Spec := specOf r.a
def rawB (r : Raw) : Spec := specOf r.b
def rawC (r : Raw) : Spec := specOf r.c

/-- The instruction, if its reserved fields hold 0 (R49, R57). -/
def whenOk (c : Bool) (i : Instr) : Option Instr := if c then some i else none

/-- Unused specifier fields, and the M bits of a mask, hold 0. -/
def unused (pos : List (BitVec 8)) (m mask : BitVec 16) : Bool := pos.all (fun b => decide (b = 0)) && decide (m &&& mask = 0)

/-! ### The groups of Table 3.3 -/

/-- OP 0x01. -/
def decSystem (r : Raw) : Option Instr :=
  match r.fn.toNat with
  | 0x00 => whenOk (unused [r.d, r.a, r.b, r.c] r.m 0xffff) (.nop)
  | 0x01 => whenOk (unused [r.a, r.b, r.c] r.m 0xf000) (.sget (rawD r) (fld r.m 0 12))
  | 0x02 => whenOk (unused [r.d, r.b, r.c] r.m 0xf000) (.sset (fld r.m 0 12) (rawA r))
  | 0x03 => whenOk (unused [r.d, r.a] r.m 0) (.live (rawImm r))
  | 0x04 => whenOk (unused [r.d, r.a, r.b, r.c] r.m 0x8000) (.trap (fld r.m 0 15))
  | 0x05 => whenOk (unused [r.d, r.a, r.b, r.c] r.m 0x8000) (.brk (fld r.m 0 15))
  | _ => none

/-- OP 0x08. -/
def decInt (r : Raw) : Option Instr :=
  match r.fn.toNat with
  | 0x00 => whenOk (unused [r.c] r.m 0xffff) (.add (rawD r) (rawA r) (rawB r))
  | 0x01 => whenOk (unused [r.c] r.m 0xffff) (.sub (rawD r) (rawA r) (rawB r))
  | 0x02 => whenOk (unused [r.c] r.m 0xffff) (.and (rawD r) (rawA r) (rawB r))
  | 0x03 => whenOk (unused [r.c] r.m 0xffff) (.or (rawD r) (rawA r) (rawB r))
  | 0x04 => whenOk (unused [r.c] r.m 0xffff) (.xor (rawD r) (rawA r) (rawB r))
  | 0x05 => whenOk (unused [r.c] r.m 0xffff) (.shl (rawD r) (rawA r) (rawB r))
  | 0x06 => whenOk (unused [r.c] r.m 0xffff) (.shr (rawD r) (rawA r) (rawB r))
  | 0x07 => whenOk (unused [r.c] r.m 0xffff) (.sar (rawD r) (rawA r) (rawB r))
  | 0x08 => whenOk (unused [r.c] r.m 0xffff) (.mul (rawD r) (rawA r) (rawB r))
  | 0x09 => whenOk (unused [r.c] r.m 0xffff) (.mulh (rawD r) (rawA r) (rawB r))
  | 0x0a => whenOk (unused [r.c] r.m 0xffff) (.mulhu (rawD r) (rawA r) (rawB r))
  | 0x0b => whenOk (unused [r.c] r.m 0xffff) (.div (rawD r) (rawA r) (rawB r))
  | 0x0c => whenOk (unused [r.c] r.m 0xffff) (.divu (rawD r) (rawA r) (rawB r))
  | 0x0d => whenOk (unused [r.c] r.m 0xffff) (.mod (rawD r) (rawA r) (rawB r))
  | 0x0e => whenOk (unused [r.c] r.m 0xffff) (.modu (rawD r) (rawA r) (rawB r))
  | 0x0f => whenOk (unused [r.c] r.m 0xffff) (.min (rawD r) (rawA r) (rawB r))
  | 0x10 => whenOk (unused [r.c] r.m 0xffff) (.max (rawD r) (rawA r) (rawB r))
  | 0x11 => whenOk (unused [r.c] r.m 0xffff) (.minu (rawD r) (rawA r) (rawB r))
  | 0x12 => whenOk (unused [r.c] r.m 0xffff) (.maxu (rawD r) (rawA r) (rawB r))
  | 0x13 => whenOk (unused [r.c] r.m 0xffff) (.slt (rawD r) (rawA r) (rawB r))
  | 0x14 => whenOk (unused [r.c] r.m 0xffff) (.sltu (rawD r) (rawA r) (rawB r))
  | 0x15 => whenOk (unused [r.c] r.m 0xffff) (.seq (rawD r) (rawA r) (rawB r))
  | 0x18 => whenOk (unused [r.b, r.c] r.m 0xffff) (.clz (rawD r) (rawA r))
  | 0x19 => whenOk (unused [r.b, r.c] r.m 0xffff) (.ctz (rawD r) (rawA r))
  | 0x1a => whenOk (unused [r.b, r.c] r.m 0xffff) (.popc (rawD r) (rawA r))
  | 0x1b => whenOk (unused [r.b, r.c] r.m 0xffff) (.mv (rawD r) (rawA r))
  | 0x1c => whenOk (unused [r.b, r.c] r.m 0xfffc) (.sext (rawD r) (rawA r) (fld r.m 0 2))
  | 0x1d => whenOk (unused [r.b, r.c] r.m 0xfffc) (.zext (rawD r) (rawA r) (fld r.m 0 2))
  | _ => none

/-- OP 0x09. -/
def decImm (r : Raw) : Option Instr :=
  match r.fn.toNat with
  | 0x00 => some (.addi (rawD r) (rawA r) (rawImm r))
  | 0x02 => some (.andi (rawD r) (rawA r) (rawImm r))
  | 0x03 => some (.ori (rawD r) (rawA r) (rawImm r))
  | 0x04 => some (.xori (rawD r) (rawA r) (rawImm r))
  | 0x05 => some (.shli (rawD r) (rawA r) (rawImm r))
  | 0x06 => some (.shri (rawD r) (rawA r) (rawImm r))
  | 0x07 => some (.sari (rawD r) (rawA r) (rawImm r))
  | _ => none

/-- OP 0x0a. -/
def decLi (r : Raw) : Option Instr :=
  match r.fn.toNat with
  | 0x00 => whenOk (unused [r.a] r.m 0) (.li (rawD r) (rawImm r))
  | 0x01 => some (.lih (rawD r) (rawA r) (rawImm r))
  | _ => none

/-- OP 0x0b. -/
def decFp (r : Raw) : Option Instr :=
  match r.fn.toNat with
  | 0x00 => whenOk (unused [r.c] r.m 0xffff) (.fadd (rawD r) (rawA r) (rawB r))
  | 0x01 => whenOk (unused [r.c] r.m 0xffff) (.fsub (rawD r) (rawA r) (rawB r))
  | 0x02 => whenOk (unused [r.c] r.m 0xffff) (.fmul (rawD r) (rawA r) (rawB r))
  | 0x03 => whenOk (unused [] r.m 0xffff) (.ffma (rawD r) (rawA r) (rawB r) (rawC r))
  | 0x04 => whenOk (unused [r.c] r.m 0xffff) (.fmin (rawD r) (rawA r) (rawB r))
  | 0x05 => whenOk (unused [r.c] r.m 0xffff) (.fmax (rawD r) (rawA r) (rawB r))
  | 0x08 => whenOk (unused [r.c] r.m 0xffff) (.fcmpEq (rawD r) (rawA r) (rawB r))
  | 0x09 => whenOk (unused [r.c] r.m 0xffff) (.fcmpLt (rawD r) (rawA r) (rawB r))
  | 0x0a => whenOk (unused [r.c] r.m 0xffff) (.fcmpLe (rawD r) (rawA r) (rawB r))
  | 0x0b => whenOk (unused [r.c] r.m 0xffff) (.fcmpUn (rawD r) (rawA r) (rawB r))
  | 0x10 => whenOk (unused [r.b, r.c] r.m 0x00ff) (.fcvt (rawD r) (rawA r) (fld r.m 12 4) (fld r.m 8 4))
  | _ => none

/-- OP 0x10. -/
def decBranch (r : Raw) : Option Instr :=
  match r.fn.toNat with
  | 0x00 => some (.bEq (rawD r) (rawA r) (rawImm r))
  | 0x01 => some (.bNe (rawD r) (rawA r) (rawImm r))
  | 0x02 => some (.bLt (rawD r) (rawA r) (rawImm r))
  | 0x03 => some (.bGe (rawD r) (rawA r) (rawImm r))
  | 0x04 => some (.bLtu (rawD r) (rawA r) (rawImm r))
  | 0x05 => some (.bGeu (rawD r) (rawA r) (rawImm r))
  | _ => none

/-- OP 0x11. -/
def decJump (r : Raw) : Option Instr :=
  match r.fn.toNat with
  | 0x00 => whenOk (unused [r.a] r.m 0) (.jal (rawD r) (rawImm r))
  | 0x01 => whenOk (unused [r.b, r.c] r.m 0xffff) (.jr (rawD r) (rawA r))
  | _ => none

/-- OP 0x13. -/
def decOut (r : Raw) : Option Instr :=
  match r.fn.toNat with
  | 0x00 => whenOk (unused [r.c] r.m 0xffff) (.boutEq (rawD r) (rawA r) (rawB r))
  | 0x01 => whenOk (unused [r.c] r.m 0xffff) (.boutNe (rawD r) (rawA r) (rawB r))
  | 0x02 => whenOk (unused [r.c] r.m 0xffff) (.boutLt (rawD r) (rawA r) (rawB r))
  | 0x03 => whenOk (unused [r.c] r.m 0xffff) (.boutGe (rawD r) (rawA r) (rawB r))
  | 0x04 => whenOk (unused [r.c] r.m 0xffff) (.boutLtu (rawD r) (rawA r) (rawB r))
  | 0x05 => whenOk (unused [r.c] r.m 0xffff) (.boutGeu (rawD r) (rawA r) (rawB r))
  | 0x08 => whenOk (unused [r.a] r.m 0) (.bin (rawD r) (rawImm r))
  | 0x09 => whenOk (unused [r.a] r.m 0) (.bmz (rawD r) (rawImm r))
  | _ => none

/-- OP 0x14. -/
def decTask (r : Raw) : Option Instr :=
  match r.fn.toNat with
  | 0x00 => whenOk (unused [r.d, r.a, r.b, r.c] r.m 0xffff) (.yield)
  | 0x01 => whenOk (unused [r.d, r.a, r.b, r.c] r.m 0xffff) (.done)
  | 0x02 =>
    if r.m.getLsbD 0 then whenOk (unused [r.c] r.m 0xfffe) (.postC (rawD r) (rawA r) (rawB r))
    else whenOk (unused [r.b, r.c] r.m 0xfffe) (.post (rawD r) (rawA r))
  | _ => none

/-- OP 0x22. -/
def decAmo (r : Raw) : Option Instr :=
  match r.fn.toNat with
  | 0x00 => whenOk (unused [r.c] r.m 0xfffe) (.amoSwap (rawD r) (rawA r) (rawB r) (fld r.m 0 1))
  | 0x01 => whenOk (unused [] r.m 0xfffe) (.amoCas (rawD r) (rawA r) (rawB r) (rawC r) (fld r.m 0 1))
  | 0x02 => whenOk (unused [r.c] r.m 0xfffe) (.amoAdd (rawD r) (rawA r) (rawB r) (fld r.m 0 1))
  | 0x03 => whenOk (unused [r.c] r.m 0xfffe) (.amoAnd (rawD r) (rawA r) (rawB r) (fld r.m 0 1))
  | 0x04 => whenOk (unused [r.c] r.m 0xfffe) (.amoOr (rawD r) (rawA r) (rawB r) (fld r.m 0 1))
  | 0x05 => whenOk (unused [r.c] r.m 0xfffe) (.amoXor (rawD r) (rawA r) (rawB r) (fld r.m 0 1))
  | 0x06 => whenOk (unused [r.c] r.m 0xfffe) (.amoMin (rawD r) (rawA r) (rawB r) (fld r.m 0 1))
  | 0x07 => whenOk (unused [r.c] r.m 0xfffe) (.amoMax (rawD r) (rawA r) (rawB r) (fld r.m 0 1))
  | 0x08 => whenOk (unused [r.c] r.m 0xfffe) (.amoMinu (rawD r) (rawA r) (rawB r) (fld r.m 0 1))
  | 0x09 => whenOk (unused [r.c] r.m 0xfffe) (.amoMaxu (rawD r) (rawA r) (rawB r) (fld r.m 0 1))
  | 0x0a => whenOk (unused [r.c] r.m 0xfffe) (.amoFadd (rawD r) (rawA r) (rawB r) (fld r.m 0 1))
  | _ => none

/-- OP 0x23. -/
def decRed (r : Raw) : Option Instr :=
  match r.fn.toNat with
  | 0x01 => whenOk (unused [r.d, r.c] r.m 0xffff) (.redIadd32 (rawA r) (rawB r))
  | 0x02 => whenOk (unused [r.d, r.c] r.m 0xffff) (.redIadd64 (rawA r) (rawB r))
  | 0x03 => whenOk (unused [r.d, r.c] r.m 0xffff) (.redFadd32 (rawA r) (rawB r))
  | 0x04 => whenOk (unused [r.d, r.c] r.m 0xffff) (.redFaddbf16 (rawA r) (rawB r))
  | 0x05 => whenOk (unused [r.d, r.c] r.m 0xffff) (.redImax32 (rawA r) (rawB r))
  | 0x06 => whenOk (unused [r.d, r.c] r.m 0xffff) (.redImin32 (rawA r) (rawB r))
  | 0x07 => whenOk (unused [r.d, r.c] r.m 0xffff) (.redNmax32 (rawA r) (rawB r))
  | 0x08 => whenOk (unused [r.d, r.c] r.m 0xffff) (.redNmin32 (rawA r) (rawB r))
  | 0x09 => whenOk (unused [r.d, r.c] r.m 0xffff) (.redFmax32 (rawA r) (rawB r))
  | 0x0a => whenOk (unused [r.d, r.c] r.m 0xffff) (.redFmin32 (rawA r) (rawB r))
  | 0x0b => whenOk (unused [r.d, r.c] r.m 0xfffe) (.redOr (rawA r) (rawB r) (fld r.m 0 1))
  | 0x0c => whenOk (unused [r.d, r.c] r.m 0xfffe) (.redAnd (rawA r) (rawB r) (fld r.m 0 1))
  | 0x0d => whenOk (unused [r.d, r.c] r.m 0xfffe) (.redXor (rawA r) (rawB r) (fld r.m 0 1))
  | _ => none

/-- OP 0x24. -/
def decCache (r : Raw) : Option Instr :=
  match r.fn.toNat with
  | 0x00 => whenOk (unused [r.d] r.m 0) (.pf (rawA r) (rawB r) (rawOff r))
  | 0x08 => whenOk (unused [r.d] r.m 0) (.pfL2 (rawA r) (rawB r) (rawOff r))
  | 0x10 => whenOk (unused [r.d] r.m 0) (.pfPool (rawA r) (rawB r) (rawOff r))
  | 0x18 => whenOk (unused [r.d] r.m 0) (.cwb (rawA r) (rawB r) (rawOff r))
  | _ => none

/-- OP 0x29. -/
def decGather (r : Raw) : Option Instr :=
  match r.fn.toNat with
  | 0x00 => whenOk (unused [r.c] r.m 0xf0ce) (.vgth (fld r.m 8 4) (fld r.m 4 2) (r.m.getLsbD 0) (rawD r) (rawA r) (rawB r))
  | 0x01 => whenOk (unused [r.c] r.m 0xf0ce) (.vgthProbe (fld r.m 8 4) (fld r.m 4 2) (r.m.getLsbD 0) (rawD r) (rawA r) (rawB r))
  | 0x02 => whenOk (unused [r.c] r.m 0xf0ce) (.vsct (fld r.m 8 4) (fld r.m 4 2) (r.m.getLsbD 0) (rawD r) (rawA r) (rawB r))
  | 0x03 => whenOk (unused [r.c] r.m 0xf0fe) (.vldff (fld r.m 8 4) (r.m.getLsbD 0) (rawD r) (rawA r) (rawB r))
  | _ => none

/-- OP 0x2a. -/
def decKv (r : Raw) : Option Instr :=
  match r.fn.toNat with
  | 0x00 => whenOk (unused [] r.m 0x1fc0 && (!((r.m.getLsbD 0) && (r.m.getLsbD 1)) && (!((r.m.getLsbD 0) || (r.m.getLsbD 1)) || decide ((fld r.m 2 4) = 0)))) (.kvgth (r.m.getLsbD 0) (r.m.getLsbD 1) (fld r.m 2 4) (fld r.m 13 3) (rawD r) (rawA r) (rawB r) (rawC r))
  | 0x01 => whenOk (unused [r.d] r.m 0x1f00) (.kvapp (fld r.m 0 4) (fld r.m 4 2) (fld r.m 6 2) (fld r.m 13 3) (rawA r) (rawB r) (rawC r))
  | _ => none

/-- OP 0x2b. -/
def decVfas (r : Raw) : Option Instr :=
  match r.fn.toNat with
  | 0x00 => whenOk (unused [r.c] r.m 0xf0fe) (.vfas (fld r.m 8 4) (r.m.getLsbD 0) (rawD r) (rawA r) (rawB r))
  | _ => none

/-- OP 0x30. -/
def decCopy (r : Raw) : Option Instr :=
  match r.fn.toNat with
  | 0x00 => whenOk (unused [] r.m 0x1c00 && ((r.m.getLsbD 9) || (r.m.getLsbD 8) || decide ((rawC r) = .x false 0))) (.cpy (r.m.getLsbD 9) (r.m.getLsbD 8) (fld r.m 4 4) (fld r.m 0 4) (fld r.m 13 3) (rawD r) (rawA r) (rawB r) (rawC r))
  | 0x01 => whenOk (unused [] r.m 0x1c00) (.cpyg (r.m.getLsbD 9) (r.m.getLsbD 8) (fld r.m 4 4) (fld r.m 0 4) (fld r.m 13 3) (rawD r) (rawA r) (rawB r) (rawC r))
  | 0x02 => whenOk (unused [r.c] r.m 0x180f && ((r.m.getLsbD 10) || decide ((rawB r) = .x false 0))) (.drain (r.m.getLsbD 10) (r.m.getLsbD 9) (r.m.getLsbD 8) (fld r.m 4 4) (fld r.m 13 3) (rawD r) (rawA r) (rawB r))
  | _ => none

/-- OP 0x31. -/
def decColl (r : Raw) : Option Instr :=
  match r.fn.toNat with
  | 0x00 => whenOk (unused [] r.m 0x1000) (.collAred (fld r.m 8 4) (fld r.m 4 4) (fld r.m 0 4) (fld r.m 13 3) (rawD r) (rawA r) (rawB r) (rawC r))
  | 0x01 => whenOk (unused [] r.m 0x1f00) (.collBcast (fld r.m 4 4) (fld r.m 0 4) (fld r.m 13 3) (rawD r) (rawA r) (rawB r) (rawC r))
  | 0x02 => whenOk (unused [] r.m 0x1f00) (.collAgth (fld r.m 4 4) (fld r.m 0 4) (fld r.m 13 3) (rawD r) (rawA r) (rawB r) (rawC r))
  | 0x03 => whenOk (unused [] r.m 0x1000) (.collRsct (fld r.m 8 4) (fld r.m 4 4) (fld r.m 0 4) (fld r.m 13 3) (rawD r) (rawA r) (rawB r) (rawC r))
  | _ => none

/-- OP 0x38. -/
def decCounter (r : Raw) : Option Instr :=
  match r.fn.toNat with
  | 0x00 => whenOk (unused [r.d, r.c] r.m 0x00ff) (.cadd (fld r.m 13 3) (fld r.m 8 5) (rawA r) (rawB r))
  | 0x01 => whenOk (unused [r.d, r.c] r.m 0x1fff) (.cwait (fld r.m 13 3) (rawA r) (rawB r))
  | 0x02 => whenOk (unused [r.d] r.m 0x1fff) (.cwaitx (fld r.m 13 3) (rawA r) (rawB r) (rawC r))
  | 0x03 => whenOk (unused [r.d, r.a, r.c] r.m 0xe0ff) (.wait (fld r.m 8 5) (rawB r))
  | 0x04 => whenOk (unused [r.a, r.b, r.c] r.m 0xffff) (.tnow (rawD r))
  | 0x05 => whenOk (unused [r.d, r.b, r.c] r.m 0xffff) (.tat (rawA r))
  | 0x06 => whenOk (unused [r.a, r.b, r.c] r.m 0xe0ff) (.ctrdOs (rawD r) (fld r.m 8 5))
  | 0x07 => whenOk (unused [r.c] r.m 0xffff) (.ctrdAct (rawD r) (rawA r) (rawB r))
  | _ => none

/-- OP 0x40. -/
def decVConf (r : Raw) : Option Instr :=
  match r.fn.toNat with
  | 0x00 => whenOk (unused [r.a, r.b, r.c] r.m 0xfff0) (.vacq (rawD r) (fld r.m 0 4))
  | 0x01 => whenOk (unused [r.d, r.a, r.b, r.c] r.m 0xffff) (.vrel)
  | 0x02 => whenOk (unused [r.b, r.c] r.m 0xfffc) (.vsetl (rawD r) (rawA r) (fld r.m 0 2))
  | 0x03 => whenOk (unused [r.a, r.b, r.c] r.m 0xf0ff) (.vtag (rawD r) (fld r.m 8 4))
  | _ => none

/-- OP 0x41. -/
def decVBin (r : Raw) : Option Instr :=
  match r.fn.toNat with
  | 0x00 => whenOk (unused [r.c] r.m 0xfffe) (.vadd (r.m.getLsbD 0) (rawD r) (rawA r) (rawB r))
  | 0x01 => whenOk (unused [r.c] r.m 0xfffe) (.vsub (r.m.getLsbD 0) (rawD r) (rawA r) (rawB r))
  | 0x02 => whenOk (unused [r.c] r.m 0xfffe) (.vmul (r.m.getLsbD 0) (rawD r) (rawA r) (rawB r))
  | 0x03 => whenOk (unused [r.c] r.m 0xfffe) (.vmulh (r.m.getLsbD 0) (rawD r) (rawA r) (rawB r))
  | 0x04 => whenOk (unused [r.c] r.m 0xfffe) (.vmin (r.m.getLsbD 0) (rawD r) (rawA r) (rawB r))
  | 0x05 => whenOk (unused [r.c] r.m 0xfffe) (.vmax (r.m.getLsbD 0) (rawD r) (rawA r) (rawB r))
  | 0x06 => whenOk (unused [r.c] r.m 0xfffe) (.vand (r.m.getLsbD 0) (rawD r) (rawA r) (rawB r))
  | 0x07 => whenOk (unused [r.c] r.m 0xfffe) (.vor (r.m.getLsbD 0) (rawD r) (rawA r) (rawB r))
  | 0x08 => whenOk (unused [r.c] r.m 0xfffe) (.vxor (r.m.getLsbD 0) (rawD r) (rawA r) (rawB r))
  | 0x09 => whenOk (unused [r.c] r.m 0xfffe) (.vshl (r.m.getLsbD 0) (rawD r) (rawA r) (rawB r))
  | 0x0a => whenOk (unused [r.c] r.m 0xfffe) (.vshr (r.m.getLsbD 0) (rawD r) (rawA r) (rawB r))
  | 0x0b => whenOk (unused [r.c] r.m 0xfffe) (.vsar (r.m.getLsbD 0) (rawD r) (rawA r) (rawB r))
  | _ => none

/-- OP 0x42. -/
def decVTer (r : Raw) : Option Instr :=
  match r.fn.toNat with
  | 0x00 => whenOk (unused [] r.m 0xfffe) (.vfma (r.m.getLsbD 0) (rawD r) (rawA r) (rawB r) (rawC r))
  | _ => none

/-- OP 0x43. -/
def decVUn (r : Raw) : Option Instr :=
  match r.fn.toNat with
  | 0x00 => whenOk (unused [r.b, r.c] r.m 0xfffe) (.vabs (r.m.getLsbD 0) (rawD r) (rawA r))
  | 0x01 => whenOk (unused [r.b, r.c] r.m 0xfffe) (.vneg (r.m.getLsbD 0) (rawD r) (rawA r))
  | 0x02 => whenOk (unused [r.b, r.c] r.m 0xfffe) (.vnot (r.m.getLsbD 0) (rawD r) (rawA r))
  | 0x03 => whenOk (unused [r.b, r.c] r.m 0xfffe) (.vpopc (r.m.getLsbD 0) (rawD r) (rawA r))
  | 0x04 => whenOk (unused [r.b, r.c] r.m 0xfffe) (.vclz (r.m.getLsbD 0) (rawD r) (rawA r))
  | 0x08 => whenOk (unused [r.b, r.c] r.m 0xfffe) (.vexp2 (r.m.getLsbD 0) (rawD r) (rawA r))
  | 0x09 => whenOk (unused [r.b, r.c] r.m 0xfffe) (.vlog2 (r.m.getLsbD 0) (rawD r) (rawA r))
  | 0x0a => whenOk (unused [r.b, r.c] r.m 0xfffe) (.vrcp (r.m.getLsbD 0) (rawD r) (rawA r))
  | 0x0b => whenOk (unused [r.b, r.c] r.m 0xfffe) (.vrsqrt (r.m.getLsbD 0) (rawD r) (rawA r))
  | 0x0c => whenOk (unused [r.b, r.c] r.m 0xfffe) (.vsqrt (r.m.getLsbD 0) (rawD r) (rawA r))
  | _ => none

/-- OP 0x44. -/
def decMask (r : Raw) : Option Instr :=
  match r.fn.toNat with
  | 0x00 => whenOk (unused [r.c] r.m 0xffff) (.vcmpEq (rawD r) (rawA r) (rawB r))
  | 0x01 => whenOk (unused [r.c] r.m 0xffff) (.vcmpNe (rawD r) (rawA r) (rawB r))
  | 0x02 => whenOk (unused [r.c] r.m 0xffff) (.vcmpLt (rawD r) (rawA r) (rawB r))
  | 0x03 => whenOk (unused [r.c] r.m 0xffff) (.vcmpLe (rawD r) (rawA r) (rawB r))
  | 0x04 => whenOk (unused [r.c] r.m 0xffff) (.vcmpGt (rawD r) (rawA r) (rawB r))
  | 0x05 => whenOk (unused [r.c] r.m 0xffff) (.vcmpGe (rawD r) (rawA r) (rawB r))
  | 0x06 => whenOk (unused [r.c] r.m 0xffff) (.vcmpUn (rawD r) (rawA r) (rawB r))
  | 0x08 => whenOk (unused [r.b, r.c] r.m 0xffff) (.mpush (rawD r) (rawA r))
  | 0x09 => whenOk (unused [r.a, r.b, r.c] r.m 0xffff) (.minv (rawD r))
  | 0x0a => whenOk (unused [r.a, r.b, r.c] r.m 0xffff) (.mpop (rawD r))
  | 0x0b => whenOk (unused [r.b, r.c] r.m 0xffff) (.mset (rawD r) (rawA r))
  | 0x0c => whenOk (unused [r.b, r.c] r.m 0xf0ff) (.mget (fld r.m 8 4) (rawD r) (rawA r))
  | 0x0d => whenOk (unused [r.c] r.m 0xffff) (.vsel (rawD r) (rawA r) (rawB r))
  | _ => none

/-- OP 0x45. -/
def decPerm (r : Raw) : Option Instr :=
  match r.fn.toNat with
  | 0x00 => whenOk (unused [r.b, r.c] r.m 0xfffe) (.vmov (r.m.getLsbD 0) (rawD r) (rawA r))
  | 0x01 => whenOk (unused [r.b, r.c] r.m 0xf0fe) (.vbcast (fld r.m 8 4) (r.m.getLsbD 0) (rawD r) (rawA r))
  | 0x02 => whenOk (unused [r.b, r.c] r.m 0xf0fe) (.viota (fld r.m 8 4) (r.m.getLsbD 0) (rawD r) (rawA r))
  | 0x03 => whenOk (unused [r.c] r.m 0xfffe) (.vperm (r.m.getLsbD 0) (rawD r) (rawA r) (rawB r))
  | 0x04 => whenOk (unused [r.b, r.c] r.m 0xff0e) (.vxch (r.m.getLsbD 0) (fld r.m 4 4) (rawD r) (rawA r))
  | 0x05 => whenOk (unused [r.c] r.m 0xfffe) (.vslideUp (r.m.getLsbD 0) (rawD r) (rawA r) (rawB r))
  | 0x06 => whenOk (unused [r.c] r.m 0xfffe) (.vslideDn (r.m.getLsbD 0) (rawD r) (rawA r) (rawB r))
  | _ => none

/-- OP 0x46. -/
def decReduce (r : Raw) : Option Instr :=
  match r.fn.toNat with
  | 0x00 => whenOk (unused [r.b, r.c] r.m 0xfffe) (.vredAdd (r.m.getLsbD 0) (rawD r) (rawA r))
  | 0x01 => whenOk (unused [r.b, r.c] r.m 0xfffe) (.vredMin (r.m.getLsbD 0) (rawD r) (rawA r))
  | 0x02 => whenOk (unused [r.b, r.c] r.m 0xfffe) (.vredMax (r.m.getLsbD 0) (rawD r) (rawA r))
  | 0x03 => whenOk (unused [r.b, r.c] r.m 0xfffe) (.vredAnd (r.m.getLsbD 0) (rawD r) (rawA r))
  | 0x04 => whenOk (unused [r.b, r.c] r.m 0xfffe) (.vredOr (r.m.getLsbD 0) (rawD r) (rawA r))
  | 0x05 => whenOk (unused [r.b, r.c] r.m 0xfffe) (.vredXor (r.m.getLsbD 0) (rawD r) (rawA r))
  | 0x08 => whenOk (unused [r.b, r.c] r.m 0xfffe) (.vscanAdd (r.m.getLsbD 0) (rawD r) (rawA r))
  | 0x09 => whenOk (unused [r.b, r.c] r.m 0xfffe) (.vscanMin (r.m.getLsbD 0) (rawD r) (rawA r))
  | 0x0a => whenOk (unused [r.b, r.c] r.m 0xfffe) (.vscanMax (r.m.getLsbD 0) (rawD r) (rawA r))
  | 0x0b => whenOk (unused [r.b, r.c] r.m 0xfffe) (.vscanAnd (r.m.getLsbD 0) (rawD r) (rawA r))
  | 0x0c => whenOk (unused [r.b, r.c] r.m 0xfffe) (.vscanOr (r.m.getLsbD 0) (rawD r) (rawA r))
  | 0x0d => whenOk (unused [r.b, r.c] r.m 0xfffe) (.vscanXor (r.m.getLsbD 0) (rawD r) (rawA r))
  | _ => none

/-- OP 0x47. -/
def decTopK (r : Raw) : Option Instr :=
  match r.fn.toNat with
  | 0x00 => whenOk (unused [r.c] r.m 0xffcf) (.vcmpr (fld r.m 4 2) (rawD r) (rawA r) (rawB r))
  | 0x01 => whenOk (unused [] r.m 0xfffe) (.vtopk (r.m.getLsbD 0) (rawD r) (rawA r) (rawB r) (rawC r))
  | _ => none

/-- OP 0x48. -/
def decConvert (r : Raw) : Option Instr :=
  match r.fn.toNat with
  | 0x00 => whenOk (unused [r.b, r.c] r.m 0xf0fe) (.vcvt (fld r.m 8 4) (r.m.getLsbD 0) (rawD r) (rawA r))
  | 0x01 => whenOk (unused [r.c] r.m 0xf0fe) (.vqnt (fld r.m 8 4) (r.m.getLsbD 0) (rawD r) (rawA r) (rawB r))
  | 0x02 => whenOk (unused [r.c] r.m 0xf0fe) (.vdq (fld r.m 8 4) (r.m.getLsbD 0) (rawD r) (rawA r) (rawB r))
  | 0x08 => whenOk (unused [] r.m 0xff0e) (.vlutG (fld r.m 4 4) (r.m.getLsbD 0) (rawD r) (rawA r) (rawB r) (rawC r))
  | 0x09 => whenOk (unused [r.b, r.c] r.m 0xfffe) (.vlutJ (r.m.getLsbD 0) (rawD r) (rawA r))
  | 0x0a => whenOk (unused [] r.m 0xfffe) (.vlutY (r.m.getLsbD 0) (rawD r) (rawA r) (rawB r) (rawC r))
  | _ => none

/-- OP 0x50. -/
def decMm (r : Raw) : Option Instr :=
  match r.fn.toNat with
  | 0x00 => whenOk (unused [] r.m 0x0ffc) (.mm (fld r.c 4 4) (fld r.c 0 4) (fld r.m 12 4) (r.m.getLsbD 0) (r.m.getLsbD 1) (rawD r) (rawA r) (rawB r))
  | 0x01 => whenOk (unused [] r.m 0x0fe0 && ((r.m.getLsbD 2) || decide ((fld r.m 3 2) = 0))) (.mms (fld r.c 4 4) (fld r.c 0 4) (fld r.m 12 4) (r.m.getLsbD 0) (r.m.getLsbD 1) (r.m.getLsbD 2) (fld r.m 3 2) (rawD r) (rawA r) (rawB r))
  | _ => none

/-- OP 0x51. -/
def decAcc (r : Raw) : Option Instr :=
  match r.fn.toNat with
  | 0x00 => whenOk (unused [r.a, r.b, r.c] r.m 0xf0ff) (.mzero (fld r.m 8 4) (rawD r))
  | 0x01 => whenOk (unused [r.b, r.c] r.m 0xffff) (.mld (rawD r) (rawA r))
  | 0x02 => whenOk (unused [r.b, r.c] r.m 0xffff) (.mst (rawD r) (rawA r))
  | _ => none

/-- OP 0x52. -/
def decTpln (r : Raw) : Option Instr :=
  match r.fn.toNat with
  | 0x00 => whenOk (unused [] r.m 0xffe1 && decide (r.c &&& 0x0f = 0) && ((r.m.getLsbD 2) || (decide ((fld r.m 3 2) = 0) && decide ((rawB r) = .x false 0)))) (.tpln (fld r.c 4 4) (r.m.getLsbD 1) (r.m.getLsbD 2) (fld r.m 3 2) (rawD r) (rawA r) (rawB r))
  | _ => none

/-- OP 0x58. -/
def decTile (r : Raw) : Option Instr :=
  match r.fn.toNat with
  | 0x00 => whenOk (unused [r.b, r.c] r.m 0xfffe) (.tdef (r.m.getLsbD 0) (rawD r) (rawA r))
  | 0x01 => whenOk (unused [r.a, r.b, r.c] r.m 0xfffe) (.tfree (r.m.getLsbD 0) (rawD r))
  | 0x02 =>
    if r.m.getLsbD 0 then whenOk (unused [r.b, r.c] r.m 0xfffe) (.twaitE (rawD r) (rawA r))
    else whenOk (unused [r.b, r.c] r.m 0xfffe) (.twaitR (rawD r) (rawA r))
  | 0x03 => whenOk (unused [r.b, r.c] r.m 0xffff) (.tstat (rawD r) (rawA r))
  | 0x04 =>
    if r.m.getLsbD 0 then whenOk (unused [r.c] r.m 0xfffe) (.tsetlC (rawD r) (rawA r) (rawB r))
    else whenOk (unused [r.b, r.c] r.m 0xfffe) (.tsetl (rawD r) (rawA r))
  | _ => none

/-- OP 0x59. -/
def decHandle (r : Raw) : Option Instr :=
  match r.fn.toNat with
  | 0x00 =>
    if r.m.getLsbD 0 then whenOk (unused [r.d, r.a, r.b, r.c] r.m 0x1ffe) (.tlbiAll (fld r.m 13 3))
    else whenOk (unused [r.d, r.b, r.c] r.m 0x1ffe) (.tlbiVa (rawA r) (fld r.m 13 3))
  | 0x01 => whenOk (unused [r.c] r.m 0xffff) (.hset (rawD r) (rawA r) (rawB r))
  | 0x02 => whenOk (unused [r.d, r.b, r.c] r.m 0xffff) (.hinv (rawA r))
  | _ => none

/-- OP 0x60. -/
def decLookup (r : Raw) : Option Instr :=
  match r.fn.toNat with
  | 0x00 => whenOk (unused [r.d, r.b] r.m 0x1ffe) (.cbld (r.m.getLsbD 0) (fld r.m 13 3) (rawA r) (rawC r))
  | 0x01 => whenOk (unused [] r.m 0x1fff) (.tbld (fld r.m 13 3) (rawD r) (rawA r) (rawB r) (rawC r))
  | 0x02 => whenOk (unused [] r.m 0x1fff) (.lkac (fld r.m 13 3) (rawD r) (rawA r) (rawB r) (rawC r))
  | 0x03 => whenOk (unused [] r.m 0x1fff) (.bpld (fld r.m 13 3) (rawD r) (rawA r) (rawB r) (rawC r))
  | 0x04 => whenOk (unused [] r.m 0x1fff) (.bkst (fld r.m 13 3) (rawD r) (rawA r) (rawB r) (rawC r))
  | _ => none

/-- OP 0x68. -/
def decStream (r : Raw) : Option Instr :=
  match r.fn.toNat with
  | 0x00 =>
    if r.m.getLsbD 4 then whenOk (unused [] r.m 0xffe0) (.sbindSt (fld r.m 0 3) (r.m.getLsbD 3) (rawD r) (rawA r) (rawB r) (rawC r))
    else whenOk (unused [] r.m 0xffe0) (.sbindLd (fld r.m 0 3) (r.m.getLsbD 3) (rawD r) (rawA r) (rawB r) (rawC r))
  | 0x01 => whenOk (unused [r.a, r.b, r.c] r.m 0xffff) (.sfree (rawD r))
  | _ => none

/-- OP 0x02, format F-Y. -/
def decFence (r : Raw) : Option Instr :=
  match r.fn.toNat with
  | 0x00 => whenOk (decide (fld (rawBits r) 0 35 = 0)) (.fence (fld (rawBits r) 43 5) (fld (rawBits r) 38 5) (fld (rawBits r) 35 3))
  | _ => none

/-- OP 0x12, formats F-L and F-S. -/
def decLoop (r : Raw) : Option Instr :=
  match r.fn.toNat with
  | 0x00 => whenOk (decide (fld r.a 1 7 = 0)) (.loop (rawD r) (r.a.getLsbD 0) (rawImm r))
  | 0x01 =>
    let v := rawBits r
    whenOk (sbrFields (fld v 38 5) (fld v 33 5) (fld v 28 5) (fld v 23 5) (fld v 21 2) (v.getLsbD 20))
      (.sbr (fld v 43 5) (fld v 38 5) (fld v 33 5) (fld v 28 5) (fld v 23 5) (fld v 21 2) (v.getLsbD 20) (fld v 18 2) (fld v 0 18))
  | _ => none

/-- OP 0x20, format F-M: variants 0, 1, 2 and 3 in FN[7:3], size codes 0 to 3 in FN[2:0]. -/
def decLoad (r : Raw) : Option Instr :=
  let z := fld r.fn 0 2
  match (fld r.fn 2 6).toNat with
  | 0 => some (.ld z (rawD r) (rawA r) (rawB r) (rawOff r))
  | 2 => whenOk (decide (z ≠ 3)) (.ldS z (rawD r) (rawA r) (rawB r) (rawOff r))
  | 4 => some (.ldNt z (rawD r) (rawA r) (rawB r) (rawOff r))
  | 6 => some (.ldKeep z (rawD r) (rawA r) (rawB r) (rawOff r))
  | _ => none

/-- OP 0x21, format F-M. -/
def decStore (r : Raw) : Option Instr :=
  let z := fld r.fn 0 2
  match (fld r.fn 2 6).toNat with
  | 0 => some (.st z (rawD r) (rawA r) (rawB r) (rawOff r))
  | 4 => some (.stNt z (rawD r) (rawA r) (rawB r) (rawOff r))
  | 6 => some (.stKeep z (rawD r) (rawA r) (rawB r) (rawOff r))
  | _ => none

/-- OP 0x28: FN[7] the direction, FN[6:3] the type, FN[2:0] its size code; FN 0x00 and 0x80 are the strided forms in
format F-R (R188, R189). -/
def decVMem (r : Raw) : Option Instr :=
  let t := fld r.fn 3 4
  if r.fn = 0x00 then whenOk (unused [r.c] r.m 0xf0fe) (.vlds (fld r.m 8 4) (r.m.getLsbD 0) (rawD r) (rawA r) (rawB r))
  else if r.fn = 0x80 then
    whenOk (unused [r.c] r.m 0xf0fe) (.vsts (fld r.m 8 4) (r.m.getLsbD 0) (rawD r) (rawA r) (rawB r))
  else if r.fn.getLsbD 7 then
    whenOk (unitType t && decide (fld r.fn 0 3 = widthCode t)) (.vst t (rawD r) (rawA r) (rawB r) (rawOff r))
  else whenOk (unitType t && decide (fld r.fn 0 3 = widthCode t)) (.vld t (rawD r) (rawA r) (rawB r) (rawOff r))

/-- A word by its major opcode. -/
def decGroup (r : Raw) : Option Instr :=
  match r.op.toNat with
  | 0x01 => decSystem r
  | 0x02 => decFence r
  | 0x08 => decInt r
  | 0x09 => decImm r
  | 0x0a => decLi r
  | 0x0b => decFp r
  | 0x10 => decBranch r
  | 0x11 => decJump r
  | 0x12 => decLoop r
  | 0x13 => decOut r
  | 0x14 => decTask r
  | 0x20 => decLoad r
  | 0x21 => decStore r
  | 0x22 => decAmo r
  | 0x23 => decRed r
  | 0x24 => decCache r
  | 0x28 => decVMem r
  | 0x29 => decGather r
  | 0x2a => decKv r
  | 0x2b => decVfas r
  | 0x30 => decCopy r
  | 0x31 => decColl r
  | 0x38 => decCounter r
  | 0x40 => decVConf r
  | 0x41 => decVBin r
  | 0x42 => decVTer r
  | 0x43 => decVUn r
  | 0x44 => decMask r
  | 0x45 => decPerm r
  | 0x46 => decReduce r
  | 0x47 => decTopK r
  | 0x48 => decConvert r
  | 0x50 => decMm r
  | 0x51 => decAcc r
  | 0x52 => decTpln r
  | 0x58 => decTile r
  | 0x59 => decHandle r
  | 0x60 => decLookup r
  | 0x68 => decStream r
  | _ => none

/-- A word on a sequencer: its group must be permitted there (Table 3.4). -/
def decodeRaw (sd : Side) (r : Raw) : Option Instr := if groupOn sd r.op r.fn then decGroup r else none

/-- THE DECODER of a sequencer's word. A word that is no instruction decodes to its fault (R57). -/
def decode64 (sd : Side) (w : Word) : Instr := (decodeRaw sd (rawOf w)).getD (.illegalOpcode w)

/-! ### Kernel words (R293, Table 13.6) -/

/-- A kernel instruction, or none for an unassigned word. -/
def decodeKernel (w : BitVec 32) : Option Instr :=
  match (fld w 26 6).toNat with
  | 0x01 => whenOk (decide (fld w 15 8 = 0)) (.kAct (fld w 23 3) (fld w 0 15))
  | 0x02 => whenOk (decide (fld w 10 13 = 0)) (.kCol (fld w 23 3) (fld w 0 10))
  | 0x03 => whenOk (decide (fld w 0 26 = 0)) .kPre
  | 0x04 => whenOk (decide (fld w 0 17 = 0)) (.kMra (fld w 23 3) (fld w 20 3) (fld w 17 3))
  | 0x05 =>
    if w.getLsbD 15 then whenOk (decide (fld w 13 2 = 0)) (.kAloopR (fld w 23 3) (fld w 16 7) (fld w 10 3) (fld w 0 10))
    else some (.kAloopI (fld w 23 3) (fld w 16 7) (fld w 10 5) (fld w 0 10))
  | 0x06 => whenOk (decide (fld w 11 15 = 0)) (.kAjmp (fld w 0 11))
  | 0x07 => whenOk (decide (fld w 0 26 = 0)) .kAend
  | 0x08 => whenOk (decide (fld w 0 23 = 0)) (.kSqpop (fld w 23 3))
  | 0x10 => whenOk (decide (fld w 0 26 = 0)) .kIqpop
  | 0x11 =>
    if w.getLsbD 20 then
      whenOk (decide (fld w 0 19 = 0)) (if w.getLsbD 19 then .kLkD (fld w 23 3) (fld w 21 2) else .kLkDn (fld w 23 3) (fld w 21 2))
    else
      whenOk (decide (fld w 0 5 = 0)) (if w.getLsbD 19 then .kLkI (fld w 23 3) (fld w 21 2) (fld w 9 10) (fld w 5 4)
        else .kLk (fld w 23 3) (fld w 21 2) (fld w 9 10) (fld w 5 4))
  | 0x12 => whenOk (decide (fld w 0 13 = 0)) (.kZclr (fld w 20 6) (fld w 13 7))
  | 0x13 => whenOk (decide (fld w 0 13 = 0)) (.kZout (fld w 20 6) (fld w 13 7))
  | 0x14 =>
    if w.getLsbD 25 then whenOk (decide (fld w 10 12 = 0)) (.kXloopR (fld w 22 3) (fld w 0 10))
    else whenOk (decide (fld w 22 3 = 0)) (.kXloopI (fld w 10 12) (fld w 0 10))
  | 0x15 => whenOk (decide (fld w 0 26 = 0)) .kXend
  | 0x16 => whenOk (decide (fld w 0 20 = 0)) (.kSqpush (fld w 20 6))
  | _ => none

/-! ### The opcode table's words -/

/-- The instruction whose bits are `w`: a row of 32 bits is a kernel word, read at its bank; a longer one is a sequencer's
word, which is one 64-bit word, so its bytes in memory are its bits in order. A word permitted on A only is read as
A's. -/
def decodeTableWord (nbits w : Nat) : Option Instr :=
  if nbits ≤ 32 then decodeKernel (BitVec.ofNat 32 w)
  else
    match decodeRaw .x (rawOf (BitVec.ofNat 64 w)) with
    | some i => some i
    | none => decodeRaw .a (rawOf (BitVec.ofNat 64 w))

/-! ### The encoder -/

def rawWord (r : Raw) : Word := r.op ++ r.fn ++ r.d ++ r.a ++ r.b ++ r.c ++ r.m

def rawLow (op fn : BitVec 8) (v : BitVec 48) : Raw :=
  ⟨op, fn, v.extractLsb' 40 8, v.extractLsb' 32 8, v.extractLsb' 24 8, v.extractLsb' 16 8, v.extractLsb' 0 16⟩

/-- The byte of a specifier (Table 3.2). -/
def specByte : Spec → BitVec 8
  | .x l i => 0#2 ++ BitVec.ofBool l ++ i
  | .o i => 0b01000#5 ++ i
  | .l i => 0b010010#6 ++ i
  | .q i => 0b010100#6 ++ i
  | .k i => 0b01011#5 ++ i
  | .w i => 0b0110000#7 ++ i
  | .acc i => 0b0110100#7 ++ i
  | .bq => 0x70
  | .m => 0x71
  | .v i => 0b100#3 ++ i
  | .t i => 0b101#3 ++ i
  | .imm v => 0b11#2 ++ v
  | .reserved b => b

/-- The fields of a sequencer's word; a kernel word and a step have none. -/
def encodeRaw : Instr → Option Raw
  | .sget d num => some ⟨0x01, 0x01, specByte d, 0, 0, 0, 0#4 ++ num⟩
  | .sset num a => some ⟨0x01, 0x02, 0, specByte a, 0, 0, 0#4 ++ num⟩
  | .live mask => some ⟨0x01, 0x03, 0, 0, mask.extractLsb' 24 8, mask.extractLsb' 16 8, mask.extractLsb' 0 16⟩
  | .trap code => some ⟨0x01, 0x04, 0, 0, 0, 0, 0#1 ++ code⟩
  | .brk code => some ⟨0x01, 0x05, 0, 0, 0, 0, 0#1 ++ code⟩
  | .fence p q scope => some (rawLow 0x02 0x00 (p ++ q ++ scope ++ 0#35))
  | .add d a b => some ⟨0x08, 0x00, specByte d, specByte a, specByte b, 0, 0⟩
  | .sub d a b => some ⟨0x08, 0x01, specByte d, specByte a, specByte b, 0, 0⟩
  | .and d a b => some ⟨0x08, 0x02, specByte d, specByte a, specByte b, 0, 0⟩
  | .or d a b => some ⟨0x08, 0x03, specByte d, specByte a, specByte b, 0, 0⟩
  | .xor d a b => some ⟨0x08, 0x04, specByte d, specByte a, specByte b, 0, 0⟩
  | .shl d a b => some ⟨0x08, 0x05, specByte d, specByte a, specByte b, 0, 0⟩
  | .shr d a b => some ⟨0x08, 0x06, specByte d, specByte a, specByte b, 0, 0⟩
  | .sar d a b => some ⟨0x08, 0x07, specByte d, specByte a, specByte b, 0, 0⟩
  | .mul d a b => some ⟨0x08, 0x08, specByte d, specByte a, specByte b, 0, 0⟩
  | .mulh d a b => some ⟨0x08, 0x09, specByte d, specByte a, specByte b, 0, 0⟩
  | .mulhu d a b => some ⟨0x08, 0x0a, specByte d, specByte a, specByte b, 0, 0⟩
  | .div d a b => some ⟨0x08, 0x0b, specByte d, specByte a, specByte b, 0, 0⟩
  | .divu d a b => some ⟨0x08, 0x0c, specByte d, specByte a, specByte b, 0, 0⟩
  | .mod d a b => some ⟨0x08, 0x0d, specByte d, specByte a, specByte b, 0, 0⟩
  | .modu d a b => some ⟨0x08, 0x0e, specByte d, specByte a, specByte b, 0, 0⟩
  | .min d a b => some ⟨0x08, 0x0f, specByte d, specByte a, specByte b, 0, 0⟩
  | .max d a b => some ⟨0x08, 0x10, specByte d, specByte a, specByte b, 0, 0⟩
  | .minu d a b => some ⟨0x08, 0x11, specByte d, specByte a, specByte b, 0, 0⟩
  | .maxu d a b => some ⟨0x08, 0x12, specByte d, specByte a, specByte b, 0, 0⟩
  | .slt d a b => some ⟨0x08, 0x13, specByte d, specByte a, specByte b, 0, 0⟩
  | .sltu d a b => some ⟨0x08, 0x14, specByte d, specByte a, specByte b, 0, 0⟩
  | .seq d a b => some ⟨0x08, 0x15, specByte d, specByte a, specByte b, 0, 0⟩
  | .clz d a => some ⟨0x08, 0x18, specByte d, specByte a, 0, 0, 0⟩
  | .ctz d a => some ⟨0x08, 0x19, specByte d, specByte a, 0, 0, 0⟩
  | .popc d a => some ⟨0x08, 0x1a, specByte d, specByte a, 0, 0, 0⟩
  | .mv d a => some ⟨0x08, 0x1b, specByte d, specByte a, 0, 0, 0⟩
  | .sext d a w => some ⟨0x08, 0x1c, specByte d, specByte a, 0, 0, 0#14 ++ w⟩
  | .zext d a w => some ⟨0x08, 0x1d, specByte d, specByte a, 0, 0, 0#14 ++ w⟩
  | .addi d a imm => some ⟨0x09, 0x00, specByte d, specByte a, imm.extractLsb' 24 8, imm.extractLsb' 16 8, imm.extractLsb' 0 16⟩
  | .andi d a imm => some ⟨0x09, 0x02, specByte d, specByte a, imm.extractLsb' 24 8, imm.extractLsb' 16 8, imm.extractLsb' 0 16⟩
  | .ori d a imm => some ⟨0x09, 0x03, specByte d, specByte a, imm.extractLsb' 24 8, imm.extractLsb' 16 8, imm.extractLsb' 0 16⟩
  | .xori d a imm => some ⟨0x09, 0x04, specByte d, specByte a, imm.extractLsb' 24 8, imm.extractLsb' 16 8, imm.extractLsb' 0 16⟩
  | .shli d a imm => some ⟨0x09, 0x05, specByte d, specByte a, imm.extractLsb' 24 8, imm.extractLsb' 16 8, imm.extractLsb' 0 16⟩
  | .shri d a imm => some ⟨0x09, 0x06, specByte d, specByte a, imm.extractLsb' 24 8, imm.extractLsb' 16 8, imm.extractLsb' 0 16⟩
  | .sari d a imm => some ⟨0x09, 0x07, specByte d, specByte a, imm.extractLsb' 24 8, imm.extractLsb' 16 8, imm.extractLsb' 0 16⟩
  | .li d imm => some ⟨0x0a, 0x00, specByte d, 0, imm.extractLsb' 24 8, imm.extractLsb' 16 8, imm.extractLsb' 0 16⟩
  | .lih d a imm => some ⟨0x0a, 0x01, specByte d, specByte a, imm.extractLsb' 24 8, imm.extractLsb' 16 8, imm.extractLsb' 0 16⟩
  | .fadd d a b => some ⟨0x0b, 0x00, specByte d, specByte a, specByte b, 0, 0⟩
  | .fsub d a b => some ⟨0x0b, 0x01, specByte d, specByte a, specByte b, 0, 0⟩
  | .fmul d a b => some ⟨0x0b, 0x02, specByte d, specByte a, specByte b, 0, 0⟩
  | .ffma d a b cc => some ⟨0x0b, 0x03, specByte d, specByte a, specByte b, specByte cc, 0⟩
  | .fmin d a b => some ⟨0x0b, 0x04, specByte d, specByte a, specByte b, 0, 0⟩
  | .fmax d a b => some ⟨0x0b, 0x05, specByte d, specByte a, specByte b, 0, 0⟩
  | .fcmpEq d a b => some ⟨0x0b, 0x08, specByte d, specByte a, specByte b, 0, 0⟩
  | .fcmpLt d a b => some ⟨0x0b, 0x09, specByte d, specByte a, specByte b, 0, 0⟩
  | .fcmpLe d a b => some ⟨0x0b, 0x0a, specByte d, specByte a, specByte b, 0, 0⟩
  | .fcmpUn d a b => some ⟨0x0b, 0x0b, specByte d, specByte a, specByte b, 0, 0⟩
  | .fcvt d a dt st => some ⟨0x0b, 0x10, specByte d, specByte a, 0, 0, dt ++ st ++ 0#8⟩
  | .bEq a b off => some ⟨0x10, 0x00, specByte a, specByte b, off.extractLsb' 24 8, off.extractLsb' 16 8, off.extractLsb' 0 16⟩
  | .bNe a b off => some ⟨0x10, 0x01, specByte a, specByte b, off.extractLsb' 24 8, off.extractLsb' 16 8, off.extractLsb' 0 16⟩
  | .bLt a b off => some ⟨0x10, 0x02, specByte a, specByte b, off.extractLsb' 24 8, off.extractLsb' 16 8, off.extractLsb' 0 16⟩
  | .bGe a b off => some ⟨0x10, 0x03, specByte a, specByte b, off.extractLsb' 24 8, off.extractLsb' 16 8, off.extractLsb' 0 16⟩
  | .bLtu a b off => some ⟨0x10, 0x04, specByte a, specByte b, off.extractLsb' 24 8, off.extractLsb' 16 8, off.extractLsb' 0 16⟩
  | .bGeu a b off => some ⟨0x10, 0x05, specByte a, specByte b, off.extractLsb' 24 8, off.extractLsb' 16 8, off.extractLsb' 0 16⟩
  | .jal d off => some ⟨0x11, 0x00, specByte d, 0, off.extractLsb' 24 8, off.extractLsb' 16 8, off.extractLsb' 0 16⟩
  | .jr d a => some ⟨0x11, 0x01, specByte d, specByte a, 0, 0, 0⟩
  | .loop n p off => some ⟨0x12, 0x00, specByte n, 0#7 ++ BitVec.ofBool p, off.extractLsb' 24 8, off.extractLsb' 16 8, off.extractLsb' 0 16⟩
  | .sbr cnt r1 r2 r3 r4 n na sh off => some (rawLow 0x12 0x01 (cnt ++ r1 ++ r2 ++ r3 ++ r4 ++ n ++ BitVec.ofBool na ++ sh ++ off))
  | .boutEq d a b => some ⟨0x13, 0x00, specByte d, specByte a, specByte b, 0, 0⟩
  | .boutNe d a b => some ⟨0x13, 0x01, specByte d, specByte a, specByte b, 0, 0⟩
  | .boutLt d a b => some ⟨0x13, 0x02, specByte d, specByte a, specByte b, 0, 0⟩
  | .boutGe d a b => some ⟨0x13, 0x03, specByte d, specByte a, specByte b, 0, 0⟩
  | .boutLtu d a b => some ⟨0x13, 0x04, specByte d, specByte a, specByte b, 0, 0⟩
  | .boutGeu d a b => some ⟨0x13, 0x05, specByte d, specByte a, specByte b, 0, 0⟩
  | .bin a off => some ⟨0x13, 0x08, specByte a, 0, off.extractLsb' 24 8, off.extractLsb' 16 8, off.extractLsb' 0 16⟩
  | .bmz a off => some ⟨0x13, 0x09, specByte a, 0, off.extractLsb' 24 8, off.extractLsb' 16 8, off.extractLsb' 0 16⟩
  | .post d a => some ⟨0x14, 0x02, specByte d, specByte a, 0, 0, 0#15 ++ 0#1⟩
  | .postC d a b => some ⟨0x14, 0x02, specByte d, specByte a, specByte b, 0, 0#15 ++ 1#1⟩
  | .ld z d a b off => some ⟨0x20, 0#6 ++ z, specByte d, specByte a, specByte b, off.extractLsb' 16 8, off.extractLsb' 0 16⟩
  | .ldS z d a b off => some ⟨0x20, 2#6 ++ z, specByte d, specByte a, specByte b, off.extractLsb' 16 8, off.extractLsb' 0 16⟩
  | .ldNt z d a b off => some ⟨0x20, 4#6 ++ z, specByte d, specByte a, specByte b, off.extractLsb' 16 8, off.extractLsb' 0 16⟩
  | .ldKeep z d a b off => some ⟨0x20, 6#6 ++ z, specByte d, specByte a, specByte b, off.extractLsb' 16 8, off.extractLsb' 0 16⟩
  | .st z d a b off => some ⟨0x21, 0#6 ++ z, specByte d, specByte a, specByte b, off.extractLsb' 16 8, off.extractLsb' 0 16⟩
  | .stNt z d a b off => some ⟨0x21, 4#6 ++ z, specByte d, specByte a, specByte b, off.extractLsb' 16 8, off.extractLsb' 0 16⟩
  | .stKeep z d a b off => some ⟨0x21, 6#6 ++ z, specByte d, specByte a, specByte b, off.extractLsb' 16 8, off.extractLsb' 0 16⟩
  | .amoSwap d a b sz => some ⟨0x22, 0x00, specByte d, specByte a, specByte b, 0, 0#15 ++ sz⟩
  | .amoCas d a b cc sz => some ⟨0x22, 0x01, specByte d, specByte a, specByte b, specByte cc, 0#15 ++ sz⟩
  | .amoAdd d a b sz => some ⟨0x22, 0x02, specByte d, specByte a, specByte b, 0, 0#15 ++ sz⟩
  | .amoAnd d a b sz => some ⟨0x22, 0x03, specByte d, specByte a, specByte b, 0, 0#15 ++ sz⟩
  | .amoOr d a b sz => some ⟨0x22, 0x04, specByte d, specByte a, specByte b, 0, 0#15 ++ sz⟩
  | .amoXor d a b sz => some ⟨0x22, 0x05, specByte d, specByte a, specByte b, 0, 0#15 ++ sz⟩
  | .amoMin d a b sz => some ⟨0x22, 0x06, specByte d, specByte a, specByte b, 0, 0#15 ++ sz⟩
  | .amoMax d a b sz => some ⟨0x22, 0x07, specByte d, specByte a, specByte b, 0, 0#15 ++ sz⟩
  | .amoMinu d a b sz => some ⟨0x22, 0x08, specByte d, specByte a, specByte b, 0, 0#15 ++ sz⟩
  | .amoMaxu d a b sz => some ⟨0x22, 0x09, specByte d, specByte a, specByte b, 0, 0#15 ++ sz⟩
  | .amoFadd d a b sz => some ⟨0x22, 0x0a, specByte d, specByte a, specByte b, 0, 0#15 ++ sz⟩
  | .redIadd32 a b => some ⟨0x23, 0x01, 0, specByte a, specByte b, 0, 0⟩
  | .redIadd64 a b => some ⟨0x23, 0x02, 0, specByte a, specByte b, 0, 0⟩
  | .redFadd32 a b => some ⟨0x23, 0x03, 0, specByte a, specByte b, 0, 0⟩
  | .redFaddbf16 a b => some ⟨0x23, 0x04, 0, specByte a, specByte b, 0, 0⟩
  | .redImax32 a b => some ⟨0x23, 0x05, 0, specByte a, specByte b, 0, 0⟩
  | .redImin32 a b => some ⟨0x23, 0x06, 0, specByte a, specByte b, 0, 0⟩
  | .redNmax32 a b => some ⟨0x23, 0x07, 0, specByte a, specByte b, 0, 0⟩
  | .redNmin32 a b => some ⟨0x23, 0x08, 0, specByte a, specByte b, 0, 0⟩
  | .redFmax32 a b => some ⟨0x23, 0x09, 0, specByte a, specByte b, 0, 0⟩
  | .redFmin32 a b => some ⟨0x23, 0x0a, 0, specByte a, specByte b, 0, 0⟩
  | .redOr a b sz => some ⟨0x23, 0x0b, 0, specByte a, specByte b, 0, 0#15 ++ sz⟩
  | .redAnd a b sz => some ⟨0x23, 0x0c, 0, specByte a, specByte b, 0, 0#15 ++ sz⟩
  | .redXor a b sz => some ⟨0x23, 0x0d, 0, specByte a, specByte b, 0, 0#15 ++ sz⟩
  | .pf a b off => some ⟨0x24, 0x00, 0, specByte a, specByte b, off.extractLsb' 16 8, off.extractLsb' 0 16⟩
  | .pfL2 a b off => some ⟨0x24, 0x08, 0, specByte a, specByte b, off.extractLsb' 16 8, off.extractLsb' 0 16⟩
  | .pfPool a b off => some ⟨0x24, 0x10, 0, specByte a, specByte b, off.extractLsb' 16 8, off.extractLsb' 0 16⟩
  | .cwb a b off => some ⟨0x24, 0x18, 0, specByte a, specByte b, off.extractLsb' 16 8, off.extractLsb' 0 16⟩
  | .vld t d a b off => some ⟨0x28, 0#1 ++ t ++ widthCode t, specByte d, specByte a, specByte b, off.extractLsb' 16 8, off.extractLsb' 0 16⟩
  | .vst t d a b off => some ⟨0x28, 1#1 ++ t ++ widthCode t, specByte d, specByte a, specByte b, off.extractLsb' 16 8, off.extractLsb' 0 16⟩
  | .vlds t k d a b => some ⟨0x28, 0x00, specByte d, specByte a, specByte b, 0, 0#4 ++ t ++ 0#7 ++ BitVec.ofBool k⟩
  | .vsts t k d a b => some ⟨0x28, 0x80, specByte d, specByte a, specByte b, 0, 0#4 ++ t ++ 0#7 ++ BitVec.ofBool k⟩
  | .vgth t sc k d a b => some ⟨0x29, 0x00, specByte d, specByte a, specByte b, 0, 0#4 ++ t ++ 0#2 ++ sc ++ 0#3 ++ BitVec.ofBool k⟩
  | .vgthProbe t sc k d a b => some ⟨0x29, 0x01, specByte d, specByte a, specByte b, 0, 0#4 ++ t ++ 0#2 ++ sc ++ 0#3 ++ BitVec.ofBool k⟩
  | .vsct t sc k d a b => some ⟨0x29, 0x02, specByte d, specByte a, specByte b, 0, 0#4 ++ t ++ 0#2 ++ sc ++ 0#3 ++ BitVec.ofBool k⟩
  | .vldff t k d a b => some ⟨0x29, 0x03, specByte d, specByte a, specByte b, 0, 0#4 ++ t ++ 0#7 ++ BitVec.ofBool k⟩
  | .vfas t k d a b => some ⟨0x2b, 0x00, specByte d, specByte a, specByte b, 0, 0#4 ++ t ++ 0#7 ++ BitVec.ofBool k⟩
  | .cpy hd hs dt st scope d a b cc => some ⟨0x30, 0x00, specByte d, specByte a, specByte b, specByte cc, scope ++ 0#3 ++ BitVec.ofBool hd ++ BitVec.ofBool hs ++ dt ++ st⟩
  | .cpyg hd hs dt st scope d a b cc => some ⟨0x30, 0x01, specByte d, specByte a, specByte b, specByte cc, scope ++ 0#3 ++ BitVec.ofBool hd ++ BitVec.ofBool hs ++ dt ++ st⟩
  | .drain mx hd hs dt scope d a b => some ⟨0x30, 0x02, specByte d, specByte a, specByte b, 0, scope ++ 0#2 ++ BitVec.ofBool mx ++ BitVec.ofBool hd ++ BitVec.ofBool hs ++ dt ++ 0#4⟩
  | .collAred op dt t scope d a b cc => some ⟨0x31, 0x00, specByte d, specByte a, specByte b, specByte cc, scope ++ 0#1 ++ op ++ dt ++ t⟩
  | .collBcast dt t scope d a b cc => some ⟨0x31, 0x01, specByte d, specByte a, specByte b, specByte cc, scope ++ 0#5 ++ dt ++ t⟩
  | .collAgth dt t scope d a b cc => some ⟨0x31, 0x02, specByte d, specByte a, specByte b, specByte cc, scope ++ 0#5 ++ dt ++ t⟩
  | .collRsct op dt t scope d a b cc => some ⟨0x31, 0x03, specByte d, specByte a, specByte b, specByte cc, scope ++ 0#1 ++ op ++ dt ++ t⟩
  | .cadd scope p a b => some ⟨0x38, 0x00, 0, specByte a, specByte b, 0, scope ++ p ++ 0#8⟩
  | .cwait scope a b => some ⟨0x38, 0x01, 0, specByte a, specByte b, 0, scope ++ 0#13⟩
  | .cwaitx scope a b cc => some ⟨0x38, 0x02, 0, specByte a, specByte b, specByte cc, scope ++ 0#13⟩
  | .wait set b => some ⟨0x38, 0x03, 0, 0, specByte b, 0, 0#3 ++ set ++ 0#8⟩
  | .tnow d => some ⟨0x38, 0x04, specByte d, 0, 0, 0, 0⟩
  | .tat a => some ⟨0x38, 0x05, 0, specByte a, 0, 0, 0⟩
  | .ctrdOs d set => some ⟨0x38, 0x06, specByte d, 0, 0, 0, 0#3 ++ set ++ 0#8⟩
  | .ctrdAct d a b => some ⟨0x38, 0x07, specByte d, specByte a, specByte b, 0, 0⟩
  | .vacq d n => some ⟨0x40, 0x00, specByte d, 0, 0, 0, 0#12 ++ n⟩
  | .vsetl d a w => some ⟨0x40, 0x02, specByte d, specByte a, 0, 0, 0#14 ++ w⟩
  | .vtag d t => some ⟨0x40, 0x03, specByte d, 0, 0, 0, 0#4 ++ t ++ 0#8⟩
  | .vadd k d a b => some ⟨0x41, 0x00, specByte d, specByte a, specByte b, 0, 0#15 ++ BitVec.ofBool k⟩
  | .vsub k d a b => some ⟨0x41, 0x01, specByte d, specByte a, specByte b, 0, 0#15 ++ BitVec.ofBool k⟩
  | .vmul k d a b => some ⟨0x41, 0x02, specByte d, specByte a, specByte b, 0, 0#15 ++ BitVec.ofBool k⟩
  | .vmulh k d a b => some ⟨0x41, 0x03, specByte d, specByte a, specByte b, 0, 0#15 ++ BitVec.ofBool k⟩
  | .vmin k d a b => some ⟨0x41, 0x04, specByte d, specByte a, specByte b, 0, 0#15 ++ BitVec.ofBool k⟩
  | .vmax k d a b => some ⟨0x41, 0x05, specByte d, specByte a, specByte b, 0, 0#15 ++ BitVec.ofBool k⟩
  | .vand k d a b => some ⟨0x41, 0x06, specByte d, specByte a, specByte b, 0, 0#15 ++ BitVec.ofBool k⟩
  | .vor k d a b => some ⟨0x41, 0x07, specByte d, specByte a, specByte b, 0, 0#15 ++ BitVec.ofBool k⟩
  | .vxor k d a b => some ⟨0x41, 0x08, specByte d, specByte a, specByte b, 0, 0#15 ++ BitVec.ofBool k⟩
  | .vshl k d a b => some ⟨0x41, 0x09, specByte d, specByte a, specByte b, 0, 0#15 ++ BitVec.ofBool k⟩
  | .vshr k d a b => some ⟨0x41, 0x0a, specByte d, specByte a, specByte b, 0, 0#15 ++ BitVec.ofBool k⟩
  | .vsar k d a b => some ⟨0x41, 0x0b, specByte d, specByte a, specByte b, 0, 0#15 ++ BitVec.ofBool k⟩
  | .vfma k d a b cc => some ⟨0x42, 0x00, specByte d, specByte a, specByte b, specByte cc, 0#15 ++ BitVec.ofBool k⟩
  | .vabs k d a => some ⟨0x43, 0x00, specByte d, specByte a, 0, 0, 0#15 ++ BitVec.ofBool k⟩
  | .vneg k d a => some ⟨0x43, 0x01, specByte d, specByte a, 0, 0, 0#15 ++ BitVec.ofBool k⟩
  | .vnot k d a => some ⟨0x43, 0x02, specByte d, specByte a, 0, 0, 0#15 ++ BitVec.ofBool k⟩
  | .vpopc k d a => some ⟨0x43, 0x03, specByte d, specByte a, 0, 0, 0#15 ++ BitVec.ofBool k⟩
  | .vclz k d a => some ⟨0x43, 0x04, specByte d, specByte a, 0, 0, 0#15 ++ BitVec.ofBool k⟩
  | .vexp2 k d a => some ⟨0x43, 0x08, specByte d, specByte a, 0, 0, 0#15 ++ BitVec.ofBool k⟩
  | .vlog2 k d a => some ⟨0x43, 0x09, specByte d, specByte a, 0, 0, 0#15 ++ BitVec.ofBool k⟩
  | .vrcp k d a => some ⟨0x43, 0x0a, specByte d, specByte a, 0, 0, 0#15 ++ BitVec.ofBool k⟩
  | .vrsqrt k d a => some ⟨0x43, 0x0b, specByte d, specByte a, 0, 0, 0#15 ++ BitVec.ofBool k⟩
  | .vsqrt k d a => some ⟨0x43, 0x0c, specByte d, specByte a, 0, 0, 0#15 ++ BitVec.ofBool k⟩
  | .vcmpEq d a b => some ⟨0x44, 0x00, specByte d, specByte a, specByte b, 0, 0⟩
  | .vcmpNe d a b => some ⟨0x44, 0x01, specByte d, specByte a, specByte b, 0, 0⟩
  | .vcmpLt d a b => some ⟨0x44, 0x02, specByte d, specByte a, specByte b, 0, 0⟩
  | .vcmpLe d a b => some ⟨0x44, 0x03, specByte d, specByte a, specByte b, 0, 0⟩
  | .vcmpGt d a b => some ⟨0x44, 0x04, specByte d, specByte a, specByte b, 0, 0⟩
  | .vcmpGe d a b => some ⟨0x44, 0x05, specByte d, specByte a, specByte b, 0, 0⟩
  | .vcmpUn d a b => some ⟨0x44, 0x06, specByte d, specByte a, specByte b, 0, 0⟩
  | .mpush d a => some ⟨0x44, 0x08, specByte d, specByte a, 0, 0, 0⟩
  | .minv d => some ⟨0x44, 0x09, specByte d, 0, 0, 0, 0⟩
  | .mpop d => some ⟨0x44, 0x0a, specByte d, 0, 0, 0, 0⟩
  | .mset d a => some ⟨0x44, 0x0b, specByte d, specByte a, 0, 0, 0⟩
  | .mget t d a => some ⟨0x44, 0x0c, specByte d, specByte a, 0, 0, 0#4 ++ t ++ 0#8⟩
  | .vsel d a b => some ⟨0x44, 0x0d, specByte d, specByte a, specByte b, 0, 0⟩
  | .vmov k d a => some ⟨0x45, 0x00, specByte d, specByte a, 0, 0, 0#15 ++ BitVec.ofBool k⟩
  | .vbcast t k d a => some ⟨0x45, 0x01, specByte d, specByte a, 0, 0, 0#4 ++ t ++ 0#7 ++ BitVec.ofBool k⟩
  | .viota t k d a => some ⟨0x45, 0x02, specByte d, specByte a, 0, 0, 0#4 ++ t ++ 0#7 ++ BitVec.ofBool k⟩
  | .vperm k d a b => some ⟨0x45, 0x03, specByte d, specByte a, specByte b, 0, 0#15 ++ BitVec.ofBool k⟩
  | .vxch k dist d a => some ⟨0x45, 0x04, specByte d, specByte a, 0, 0, 0#8 ++ dist ++ 0#3 ++ BitVec.ofBool k⟩
  | .vslideUp k d a b => some ⟨0x45, 0x05, specByte d, specByte a, specByte b, 0, 0#15 ++ BitVec.ofBool k⟩
  | .vslideDn k d a b => some ⟨0x45, 0x06, specByte d, specByte a, specByte b, 0, 0#15 ++ BitVec.ofBool k⟩
  | .vredAdd k d a => some ⟨0x46, 0x00, specByte d, specByte a, 0, 0, 0#15 ++ BitVec.ofBool k⟩
  | .vredMin k d a => some ⟨0x46, 0x01, specByte d, specByte a, 0, 0, 0#15 ++ BitVec.ofBool k⟩
  | .vredMax k d a => some ⟨0x46, 0x02, specByte d, specByte a, 0, 0, 0#15 ++ BitVec.ofBool k⟩
  | .vredAnd k d a => some ⟨0x46, 0x03, specByte d, specByte a, 0, 0, 0#15 ++ BitVec.ofBool k⟩
  | .vredOr k d a => some ⟨0x46, 0x04, specByte d, specByte a, 0, 0, 0#15 ++ BitVec.ofBool k⟩
  | .vredXor k d a => some ⟨0x46, 0x05, specByte d, specByte a, 0, 0, 0#15 ++ BitVec.ofBool k⟩
  | .vscanAdd k d a => some ⟨0x46, 0x08, specByte d, specByte a, 0, 0, 0#15 ++ BitVec.ofBool k⟩
  | .vscanMin k d a => some ⟨0x46, 0x09, specByte d, specByte a, 0, 0, 0#15 ++ BitVec.ofBool k⟩
  | .vscanMax k d a => some ⟨0x46, 0x0a, specByte d, specByte a, 0, 0, 0#15 ++ BitVec.ofBool k⟩
  | .vscanAnd k d a => some ⟨0x46, 0x0b, specByte d, specByte a, 0, 0, 0#15 ++ BitVec.ofBool k⟩
  | .vscanOr k d a => some ⟨0x46, 0x0c, specByte d, specByte a, 0, 0, 0#15 ++ BitVec.ofBool k⟩
  | .vscanXor k d a => some ⟨0x46, 0x0d, specByte d, specByte a, 0, 0, 0#15 ++ BitVec.ofBool k⟩
  | .vcmpr n d a b => some ⟨0x47, 0x00, specByte d, specByte a, specByte b, 0, 0#10 ++ n ++ 0#4⟩
  | .vtopk k d a b cc => some ⟨0x47, 0x01, specByte d, specByte a, specByte b, specByte cc, 0#15 ++ BitVec.ofBool k⟩
  | .vcvt t k d a => some ⟨0x48, 0x00, specByte d, specByte a, 0, 0, 0#4 ++ t ++ 0#7 ++ BitVec.ofBool k⟩
  | .vqnt t k d a b => some ⟨0x48, 0x01, specByte d, specByte a, specByte b, 0, 0#4 ++ t ++ 0#7 ++ BitVec.ofBool k⟩
  | .vdq t k d a b => some ⟨0x48, 0x02, specByte d, specByte a, specByte b, 0, 0#4 ++ t ++ 0#7 ++ BitVec.ofBool k⟩
  | .vlutG g k d a b cc => some ⟨0x48, 0x08, specByte d, specByte a, specByte b, specByte cc, 0#8 ++ g ++ 0#3 ++ BitVec.ofBool k⟩
  | .vlutJ k d a => some ⟨0x48, 0x09, specByte d, specByte a, 0, 0, 0#15 ++ BitVec.ofBool k⟩
  | .vlutY k d a b cc => some ⟨0x48, 0x0a, specByte d, specByte a, specByte b, specByte cc, 0#15 ++ BitVec.ofBool k⟩
  | .mm at_ bt ct mxa mxb d a b => some ⟨0x50, 0x00, specByte d, specByte a, specByte b, at_ ++ bt, ct ++ 0#10 ++ BitVec.ofBool mxb ++ BitVec.ofBool mxa⟩
  | .mms at_ bt ct mxa mxb sp spn d a b => some ⟨0x50, 0x01, specByte d, specByte a, specByte b, at_ ++ bt, ct ++ 0#7 ++ spn ++ BitVec.ofBool sp ++ BitVec.ofBool mxb ++ BitVec.ofBool mxa⟩
  | .mzero t d => some ⟨0x51, 0x00, specByte d, 0, 0, 0, 0#4 ++ t ++ 0#8⟩
  | .mld d a => some ⟨0x51, 0x01, specByte d, specByte a, 0, 0, 0⟩
  | .mst d a => some ⟨0x51, 0x02, specByte d, specByte a, 0, 0, 0⟩
  | .tpln t mx sp spn d a b => some ⟨0x52, 0x00, specByte d, specByte a, specByte b, t ++ 0#4, 0#11 ++ spn ++ BitVec.ofBool sp ++ BitVec.ofBool mx ++ 0#1⟩
  | .tdef mx d a => some ⟨0x58, 0x00, specByte d, specByte a, 0, 0, 0#15 ++ BitVec.ofBool mx⟩
  | .tfree u d => some ⟨0x58, 0x01, specByte d, 0, 0, 0, 0#15 ++ BitVec.ofBool u⟩
  | .twaitR d a => some ⟨0x58, 0x02, specByte d, specByte a, 0, 0, 0#15 ++ 0#1⟩
  | .twaitE d a => some ⟨0x58, 0x02, specByte d, specByte a, 0, 0, 0#15 ++ 1#1⟩
  | .tstat d a => some ⟨0x58, 0x03, specByte d, specByte a, 0, 0, 0⟩
  | .tsetl d a => some ⟨0x58, 0x04, specByte d, specByte a, 0, 0, 0#15 ++ 0#1⟩
  | .tsetlC d a b => some ⟨0x58, 0x04, specByte d, specByte a, specByte b, 0, 0#15 ++ 1#1⟩
  | .tlbiVa a scope => some ⟨0x59, 0x00, 0, specByte a, 0, 0, scope ++ 0#12 ++ 0#1⟩
  | .tlbiAll scope => some ⟨0x59, 0x00, 0, 0, 0, 0, scope ++ 0#12 ++ 1#1⟩
  | .hset d a b => some ⟨0x59, 0x01, specByte d, specByte a, specByte b, 0, 0⟩
  | .hinv a => some ⟨0x59, 0x02, 0, specByte a, 0, 0, 0⟩
  | .cbld all scope a cc => some ⟨0x60, 0x00, 0, specByte a, 0, specByte cc, scope ++ 0#12 ++ BitVec.ofBool all⟩
  | .tbld scope d a b cc => some ⟨0x60, 0x01, specByte d, specByte a, specByte b, specByte cc, scope ++ 0#13⟩
  | .lkac scope d a b cc => some ⟨0x60, 0x02, specByte d, specByte a, specByte b, specByte cc, scope ++ 0#13⟩
  | .bpld scope d a b cc => some ⟨0x60, 0x03, specByte d, specByte a, specByte b, specByte cc, scope ++ 0#13⟩
  | .bkst scope d a b cc => some ⟨0x60, 0x04, specByte d, specByte a, specByte b, specByte cc, scope ++ 0#13⟩
  | .kvgth v nr set scope d a b cc => some ⟨0x2a, 0x00, specByte d, specByte a, specByte b, specByte cc, scope ++ 0#7 ++ set ++ BitVec.ofBool nr ++ BitVec.ofBool v⟩
  | .kvapp st fmt dc scope a b cc => some ⟨0x2a, 0x01, 0, specByte a, specByte b, specByte cc, scope ++ 0#5 ++ dc ++ fmt ++ st⟩
  | .sbindLd z sx d a b cc => some ⟨0x68, 0x00, specByte d, specByte a, specByte b, specByte cc, 0#11 ++ 0#1 ++ BitVec.ofBool sx ++ z⟩
  | .sbindSt z sx d a b cc => some ⟨0x68, 0x00, specByte d, specByte a, specByte b, specByte cc, 0#11 ++ 1#1 ++ BitVec.ofBool sx ++ z⟩
  | .sfree d => some ⟨0x68, 0x01, specByte d, 0, 0, 0, 0⟩
  | .nop => some ⟨0x01, 0x00, 0, 0, 0, 0, 0⟩
  | .yield => some ⟨0x14, 0x00, 0, 0, 0, 0, 0⟩
  | .done => some ⟨0x14, 0x01, 0, 0, 0, 0, 0⟩
  | .vrel => some ⟨0x40, 0x01, 0, 0, 0, 0, 0⟩
  | .kAct .. | .kCol .. | .kMra .. | .kAloopR .. | .kAloopI .. | .kAjmp .. | .kSqpop .. | .kLk .. | .kLkI ..
  | .kLkD .. | .kLkDn .. | .kZclr .. | .kZout .. | .kXloopR .. | .kXloopI .. | .kSqpush .. | .illegalOpcode ..
  | .unassignedKernelWord .. | .hinvPinRelease .. | .kPre | .kAend | .kIqpop | .kXend | .bankCommandStart ..
  | .codebookWrite .. | .waveStart .. | .waveEnd .. | .bankCommandRetire .. | .engineCommandComplete ..
  | .loadStreamFill .. | .storeStreamWrite .. | .registerCacheFill .. | .writeThrough .. | .readShared ..
  | .readOwn .. | .facetRequest .. | .partialPark .. | .evictionNotice .. | .rdShared .. | .rdOwn ..
  | .rdCur .. | .wrLine .. | .inval .. | .invAck .. | .data .. | .wbOwn .. | .recall .. | .atomic ..
  | .atomicRsp .. | .cmp .. | .reservedCodeFrame .. | .attReq .. | .partCfg .. | .haltRelease .. | .swWrite ..
  | .telReq .. | .rd .. | .wr .. | .bftAtomic .. | .ctrAdd .. | .ctrWait .. | .rsp .. | .ctrWake .. | .coll ..
  | .ieee1588Message .. | .pfcPause .. | .retransmitTimeout .. | .transportTimeout .. | .portStateChange ..
  | .linkFailure .. | .hostCounterPoll .. | .cwaitSatisfied .. | .refresh .. | .refreshTempSample ..
  | .refreshManagement .. | .alertWindowReset | .patrolScrub .. | .throttleSample .. | .bankBandSample ..
  | .nocClockSample .. | .powerOn .. | .serviceLevelChange .. | .windowEntry .. | .launchTime ..
  | .timedPrepare .. | .priorityAging .. | .dispatch .. | .preemptionRequest .. | .stagingComplete ..
  | .swap .. | .spillComplete .. | .taskComplete .. | .iterationWatchdog .. | .haltComplete ..
  | .instructionFetchFault | .matrixInstructionComplete .. | .timeBaseReached .. | .saturationWindowStart ..
  | .disjCopyEviction .. | .linkRetry .. => none

/-- THE ENCODER of a sequencer's word. -/
def encode (i : Instr) : Option Word := (encodeRaw i).map rawWord

/-- The encoder of a kernel word. -/
def encodeKernel : Instr → Option (BitVec 32)
  | .kAct a imm => some (0x01#6 ++ a ++ 0#8 ++ imm)
  | .kCol a imm => some (0x02#6 ++ a ++ 0#13 ++ imm)
  | .kPre => some (0x03#6 ++ 0#26)
  | .kMra a b cc => some (0x04#6 ++ a ++ b ++ cc ++ 0#17)
  | .kAloopR a step cnt off => some (0x05#6 ++ a ++ step ++ 1#1 ++ 0#2 ++ cnt ++ off)
  | .kAloopI a step cnt off => some (0x05#6 ++ a ++ step ++ 0#1 ++ cnt ++ off)
  | .kAjmp off => some (0x06#6 ++ 0#15 ++ off)
  | .kAend => some (0x07#6 ++ 0#26)
  | .kSqpop a => some (0x08#6 ++ a ++ 0#23)
  | .kIqpop => some (0x10#6 ++ 0#26)
  | .kLk n part tb bg => some (0x11#6 ++ n ++ part ++ 0#1 ++ 0#1 ++ tb ++ bg ++ 0#5)
  | .kLkI n part tb bg => some (0x11#6 ++ n ++ part ++ 0#1 ++ 1#1 ++ tb ++ bg ++ 0#5)
  | .kLkD n part => some (0x11#6 ++ n ++ part ++ 1#1 ++ 1#1 ++ 0#19)
  | .kLkDn n part => some (0x11#6 ++ n ++ part ++ 1#1 ++ 0#1 ++ 0#19)
  | .kZclr n cnt => some (0x12#6 ++ n ++ cnt ++ 0#13)
  | .kZout n cnt => some (0x13#6 ++ n ++ cnt ++ 0#13)
  | .kXloopR p off => some (0x14#6 ++ 1#1 ++ p ++ 0#12 ++ off)
  | .kXloopI cnt off => some (0x14#6 ++ 0#1 ++ 0#3 ++ cnt ++ off)
  | .kXend => some (0x15#6 ++ 0#26)
  | .kSqpush n => some (0x16#6 ++ n ++ 0#20)
  | _ => none

end Sys2Proof
end

