-- ==== Sys2Proof/Machine/Num.lean ====
section
/-!
DEFINITION. Number formats, the two rounding functions, conversion with saturation, MX scales, the transcendental
functions and the fixed summation orders (R22 to R45). Exact values are rationals; every narrowing goes through
`convert`.
-/

namespace Sys2Proof.Machine

/-- The type of a 4-bit code (Table 2.1). -/
def tyOfCode (c : BitVec 4) : ETy :=
  match c.toNat with
  | 0 => .none | 1 => .i8 | 2 => .n8 | 3 => .i16 | 4 => .n16 | 5 => .i32 | 6 => .n32 | 7 => .i64
  | 8 => .f4e2m1 | 9 => .f8e4m3 | 10 => .f8e5m2 | 11 => .bf16 | 12 => .f16 | 13 => .f32 | 14 => .cbx
  | _ => .reserved

/-- The code of a type (Table 2.1). -/
def tyCode : ETy → BitVec 4
  | .none => 0 | .i8 => 1 | .n8 => 2 | .i16 => 3 | .n16 => 4 | .i32 => 5 | .n32 => 6 | .i64 => 7
  | .f4e2m1 => 8 | .f8e4m3 => 9 | .f8e5m2 => 10 | .bf16 => 11 | .f16 => 12 | .f32 => 13 | .cbx => 14
  | .reserved => 15

/-- Width in bits; 0 for the types that hold no value (Table 2.1). -/
def tyWidth : ETy → Nat
  | .none | .reserved => 0
  | .f4e2m1 => 4
  | .i8 | .n8 | .f8e4m3 | .f8e5m2 | .cbx => 8
  | .i16 | .n16 | .bf16 | .f16 => 16
  | .i32 | .n32 | .f32 => 32
  | .i64 => 64

def tySigned : ETy → Bool
  | .i8 | .i16 | .i32 | .i64 => true
  | _ => false

def tyUnsigned : ETy → Bool
  | .n8 | .n16 | .n32 => true
  | _ => false

def tyInt (t : ETy) : Bool := tySigned t || tyUnsigned t

def tyFloat : ETy → Bool
  | .f4e2m1 | .f8e4m3 | .f8e5m2 | .bf16 | .f16 | .f32 => true
  | _ => false

/-- Types an operation can take as numbers: all of Table 2.1 but none, cbx and the reserved code. -/
def tyNumeric (t : ETy) : Bool := tyInt t || tyFloat t

/-- Fraction bits of a floating-point type (Table 2.2). -/
def fracBits : ETy → Nat
  | .f32 => 23 | .bf16 => 7 | .f16 => 10 | .f8e4m3 => 3 | .f8e5m2 => 2 | .f4e2m1 => 1 | _ => 0

/-- Exponent bits of a floating-point type (Table 2.2). -/
def expBits : ETy → Nat
  | .f32 => 8 | .bf16 => 8 | .f16 => 5 | .f8e4m3 => 4 | .f8e5m2 => 5 | .f4e2m1 => 2 | _ => 0

/-- Exponent bias (Table 2.2). -/
def expBias : ETy → Int
  | .f32 => 127 | .bf16 => 127 | .f16 => 15 | .f8e4m3 => 7 | .f8e5m2 => 15 | .f4e2m1 => 1 | _ => 0

/-- The canonical NaN (Table 2.3). -/
def canonNaN : ETy → Nat
  | .f32 => 0x7FC00000 | .bf16 => 0x7FC0 | .f16 => 0x7E00 | .f8e4m3 => 0x7F | .f8e5m2 => 0x7E | _ => 0

/-- The power of two with an integer exponent. -/
def pow2 (e : Int) : Rat := if 0 ≤ e then ((2 ^ e.toNat : Nat) : Rat) else mkRat 1 (2 ^ (-e).toNat)

/-- The floor of the base-2 logarithm of a positive rational. -/
def ilog2 (q : Rat) : Int :=
  let e : Int := (q.num.natAbs.log2 : Int) - (q.den.log2 : Int)
  if pow2 e ≤ q then e else e - 1

def ratAbs (q : Rat) : Rat := if q < 0 then -q else q

/-- An exact real of the machine's arithmetic, an infinity or NaN (R25, R33). `neg` is the sign; a finite value that is
not zero has the sign of its number. -/
inductive FV where
  | nan
  | inf (neg : Bool)
  | fin (neg : Bool) (q : Rat)
  deriving DecidableEq, Repr, Inhabited

def fvOfInt (n : Int) : FV := .fin (decide (n < 0)) n
def fvOfRat (q : Rat) : FV := .fin (decide (q < 0)) q

def fvIsNaN : FV → Bool
  | .nan => true
  | _ => false

/-- The value of an encoding (R23, R24, Table 2.2). Bits at and above the type's width are ignored. -/
def valueOf (t : ETy) (w : Word) : FV :=
  let n := w.toNat % 2 ^ tyWidth t
  if tySigned t then fvOfInt (if 2 * n < 2 ^ tyWidth t then (n : Int) else (n : Int) - 2 ^ tyWidth t)
  else if tyFloat t then
    let f := n % 2 ^ fracBits t
    let e := n / 2 ^ fracBits t % 2 ^ expBits t
    let neg : Bool := decide (n / 2 ^ (fracBits t + expBits t) % 2 = 1)
    let top : Bool := decide (e = 2 ^ expBits t - 1)
    if t = .f8e4m3 && top && f = 7 then .nan
    else if top && (t = .f32 || t = .bf16 || t = .f16 || t = .f8e5m2) then
      if f = 0 then .inf neg else .nan
    else
      let mag : Rat := if e = 0 then f * pow2 (1 - expBias t - fracBits t)
        else ((2 ^ fracBits t + f : Nat) : Rat) * pow2 (e - expBias t - fracBits t)
      .fin neg (if neg then -mag else mag)
  else fvOfInt n

/-- The nearest integer to a rational that is not negative; a tie goes to the even integer, or up when `away`. -/
def nearest (away : Bool) (m : Rat) : Int :=
  let lo := m.floor
  let r := m - lo
  if r < mkRat 1 2 then lo
  else if mkRat 1 2 < r then lo + 1
  else if away || lo % 2 = 1 then lo + 1 else lo

/-- `RoundRNE` and, with `away`, `RoundRNA`, on the unbounded grid of a type (R33); a finite argument. -/
def roundGrid (away : Bool) (t : ETy) (q : Rat) : Rat :=
  let a := ratAbs q
  let r : Rat :=
    if a = 0 then 0
    else if tyFloat t then
      let u := max (ilog2 a) (1 - expBias t) - fracBits t
      (nearest away (a * pow2 (-u)) : Rat) * pow2 u
    else (nearest away a : Rat)
  if q < 0 then -r else r

/-- Bounds of the finite range (R23, Table 2.2). -/
def maxFinite (t : ETy) : Rat :=
  match t with
  | .f8e4m3 => 448
  | .f8e5m2 => 57344
  | .f4e2m1 => 6
  | .f32 => ((2 ^ 24 - 1 : Nat) : Rat) * pow2 104
  | .bf16 => ((2 ^ 8 - 1 : Nat) : Rat) * pow2 120
  | .f16 => 65504
  | t => if tySigned t then ((2 ^ (tyWidth t - 1) - 1 : Nat) : Rat) else ((2 ^ tyWidth t - 1 : Nat) : Rat)

def minFinite (t : ETy) : Rat :=
  if tyFloat t then -maxFinite t
  else if tySigned t then -((2 ^ (tyWidth t - 1) : Nat) : Rat) else 0

/-- The pattern of infinity of a type that has one. -/
def infBits (t : ETy) (neg : Bool) : Nat :=
  (2 ^ expBits t - 1) * 2 ^ fracBits t + if neg then 2 ^ (expBits t + fracBits t) else 0

/-- The pattern of a value on the grid and inside the finite range (R23, R24); `neg` gives a zero its sign. -/
def encodeOnGrid (t : ETy) (neg : Bool) (q : Rat) : Nat :=
  if tyFloat t then
    let a := ratAbs q
    let s := if neg || q < 0 then 2 ^ (expBits t + fracBits t) else 0
    if a = 0 then s
    else
      let e := max (ilog2 a) (1 - expBias t)
      let m := (a * pow2 (fracBits t - e)).floor.toNat
      if m < 2 ^ fracBits t then s + m
      else s + (e + expBias t).toNat * 2 ^ fracBits t + (m - 2 ^ fracBits t)
  else (q.num % (2 ^ tyWidth t : Nat)).toNat

/-- A pattern and the number of saturations that writing it counts (R36). -/
abbrev Conv := Word × Nat

/-- `SatCount` (R33). -/
def satCount (t : ETy) (pos : Bool) : Conv :=
  (BitVec.ofNat 64 (encodeOnGrid t (!pos) (if pos then maxFinite t else minFinite t)), 1)

/-- `Convert` with the rows of Table 2.5 (R33, R34). A conversion of an infinity from f8e5m2 to f8e5m2 follows that table
too: it saturates and counts, although R147 calls a conversion to the same type exact (log entry 71). Integer results are
patterns of the type's width. -/
def convert (v : FV) (t : ETy) : Conv :=
  let wide : Bool := t = .f32 || t = .bf16 || t = .f16
  match v with
  | .nan =>
    if wide || t = .f8e4m3 || t = .f8e5m2 then (BitVec.ofNat 64 (canonNaN t), 0)
    else if t = .f4e2m1 then (7, 1) else (0, 1)
  | .inf neg => if wide then (BitVec.ofNat 64 (infBits t neg), 0) else satCount t (!neg)
  | .fin neg q =>
    let y := roundGrid (decide (tyWidth t < 16)) t q
    if maxFinite t < y || y < minFinite t then
      if wide then (BitVec.ofNat 64 (infBits t (decide (y < 0))), 0) else satCount t (decide (0 < y))
    else (BitVec.ofNat 64 (encodeOnGrid t (neg || q < 0) y), 0)

/-- A scalar register's form of a value of a type (R98): integers extended by their sign or with zeros, floating point in
the low bits. -/
def scalarOf (t : ETy) (w : Word) : Word :=
  let n := w.toNat % 2 ^ tyWidth t
  if tySigned t && 2 ^ tyWidth t ≤ 2 * n then BitVec.ofInt 64 ((n : Int) - 2 ^ tyWidth t) else BitVec.ofNat 64 n

/-! ### Exact arithmetic (R35) -/

def fvNeg : FV → FV
  | .nan => .nan
  | .inf n => .inf (!n)
  | .fin n q => .fin (!n) (-q)

def fvAbs : FV → FV
  | .nan => .nan
  | .inf _ => .inf false
  | .fin _ q => .fin false (ratAbs q)

def fvIsNegZero : FV → Bool
  | .fin neg q => neg && q = 0
  | _ => false

/-- The exact sum of a list of values (R35). Of no value at all it is +0: so a K-group whose every position compression
dropped adds +0, whose sign R35 and R41 leave open (log entry 72). -/
def fvSum (l : List FV) : FV :=
  if l.any fvIsNaN then .nan
  else
    let pinf := l.contains (.inf false)
    let ninf := l.contains (.inf true)
    if pinf && ninf then .nan
    else if pinf then .inf false
    else if ninf then .inf true
    else
      let s : Rat := l.foldl (fun acc v => match v with | .fin _ q => acc + q | _ => acc) 0
      if s = 0 then .fin (!l.isEmpty && l.all fvIsNegZero) 0 else fvOfRat s

def fvAdd (a b : FV) : FV := fvSum [a, b]
def fvSub (a b : FV) : FV := fvSum [a, fvNeg b]

/-- The exact product (R35). -/
def fvMul (a b : FV) : FV :=
  match a, b with
  | .nan, _ => .nan
  | _, .nan => .nan
  | .inf n, .inf m => .inf (n != m)
  | .inf n, .fin m q => if q = 0 then .nan else .inf (n != (m || decide (q < 0)))
  | .fin m q, .inf n => if q = 0 then .nan else .inf (n != (m || decide (q < 0)))
  | .fin n p, .fin m q => .fin ((n || decide (p < 0)) != (m || decide (q < 0))) (p * q)

/-- Ordered comparison; a NaN compares with nothing, the two zeros are equal (R99). -/
def fvLt (a b : FV) : Bool :=
  match a, b with
  | .nan, _ => false
  | _, .nan => false
  | .inf n, .inf m => n && !m
  | .inf n, .fin _ _ => n
  | .fin _ _, .inf m => !m
  | .fin _ p, .fin _ q => decide (p < q)

def fvEq (a b : FV) : Bool :=
  match a, b with
  | .nan, _ => false
  | _, .nan => false
  | .inf n, .inf m => n == m
  | .fin _ p, .fin _ q => decide (p = q)
  | _, _ => false

def fvLe (a b : FV) : Bool := fvLt a b || fvEq a b

/-- Whether `a` comes before `b` when −0 is ordered below +0 (R99). -/
def fvBefore (a b : FV) : Bool :=
  fvLt a b || (fvEq a b && match a, b with | .fin n p, .fin m _ => decide (p = 0) && n && !m | _, _ => false)

/-- `fmin` and `fmax` (R99). -/
def fvMin (a b : FV) : FV := if fvIsNaN a || fvIsNaN b then .nan else if fvBefore b a then b else a
def fvMax (a b : FV) : FV := if fvIsNaN a || fvIsNaN b then .nan else if fvBefore a b then b else a

/-! ### Transcendental functions (R38)

Each result is exact, or a value between the same two neighbouring grid points as the exact one and on the same side of
their midpoint: 320 fraction bits with a sticky half (log entry 16). -/

def fixBits : Nat := 320

/-- Σ z^(2k+1)/(2k+1) for k from `k` on, `n` terms; `p` is z^(2k+1), `z2` is z², all times 2^320. -/
def atanhSum (z2 : Nat) : Nat → Nat → Nat → Nat → Nat
  | 0, _, _, acc => acc
  | n + 1, k, p, acc => atanhSum z2 n (k + 1) (p * z2 / 2 ^ fixBits) (acc + p / (2 * k + 1))

/-- ln of (1 + z)/(1 − z), times 2^320. -/
def twoAtanh (z : Nat) : Nat := 2 * atanhSum (z * z / 2 ^ fixBits) 110 0 z 0

def ln2Fix : Nat := twoAtanh (2 ^ fixBits / 3)

/-- Σ y^k / k!, times 2^320; `term` is y^k / k!. -/
def expSum (y : Nat) : Nat → Nat → Nat → Nat → Nat
  | 0, _, _, acc => acc
  | n + 1, k, term, acc => expSum y n (k + 1) (term * y / 2 ^ fixBits / (k + 1)) (acc + term)

def ratOfFix (n : Nat) : Rat := mkRat n (2 ^ fixBits)

/-- 2^q for a rational q; a result far outside every format's range is cut to a power of two that is outside too. -/
def exp2Rat (q : Rat) : Rat :=
  let n := q.floor
  if n < -400 then pow2 (-400)
  else if 400 < n then pow2 400
  else
    let f := q - n
    if f = 0 then pow2 n
    else
      let y := (f * (ln2Fix : Rat)).floor.toNat
      pow2 n * (ratOfFix (expSum y 80 0 (2 ^ fixBits) 0) + pow2 (-300))

/-- log2 of a positive rational. -/
def log2Rat (q : Rat) : Rat :=
  let e := ilog2 q
  let m := q * pow2 (-e)
  if m = 1 then e
  else
    let z := ((m - 1) / (m + 1) * pow2 fixBits).floor.toNat
    e + mkRat (twoAtanh z) ln2Fix

/-- The square root of a rational that is not negative, to more than 300 bits after its first. -/
def sqrtRat (q : Rat) : Rat :=
  let k : Nat := 640
  let n := (q * pow2 (2 * k)).floor.toNat
  let r := Nat.sqrt n
  if ((r * r : Nat) : Rat) = q * pow2 (2 * k) then mkRat r 1 * pow2 (-k)
  else (mkRat r 1 + mkRat 1 2) * pow2 (-k)

/-- Table 2.7, before the one rounding. -/
def fvExp2 : FV → FV
  | .nan => .nan
  | .inf neg => if neg then .fin false 0 else .inf false
  | .fin _ q => .fin false (exp2Rat q)

def fvLog2 : FV → FV
  | .nan => .nan
  | .inf neg => if neg then .nan else .inf false
  | .fin _ q => if q = 0 then .inf true else if q < 0 then .nan else fvOfRat (log2Rat q)

def fvRcp : FV → FV
  | .nan => .nan
  | .inf neg => .fin neg 0
  | .fin neg q => if q = 0 then .inf neg else fvOfRat (1 / q)

def fvRsqrt : FV → FV
  | .nan => .nan
  | .inf neg => if neg then .nan else .fin false 0
  | .fin neg q => if q = 0 then .inf neg else if q < 0 then .nan else .fin false (sqrtRat (1 / q))

def fvSqrt : FV → FV
  | .nan => .nan
  | .inf neg => if neg then .nan else .inf false
  | .fin neg q => if q = 0 then .fin neg 0 else if q < 0 then .nan else .fin false (sqrtRat q)

/-! ### MX scales (R28, R29, R39) -/

/-- The value an E8M0 scale multiplies by, or NaN (R28). -/
def scaleValue (b : Byte) : FV := if b = 0xFF then .nan else fvOfRat (pow2 ((b.toNat : Int) - 127))

/-- Emax of Table 2.4. -/
def mxEmax : ETy → Int
  | .f4e2m1 => 2 | .f8e4m3 => 8 | .f8e5m2 => 15 | _ => 0

/-- The value of an MX element before its scale (Table 2.4). -/
def mxElement (t : ETy) (w : Word) : FV :=
  if t = .i8 then fvMul (valueOf .i8 w) (fvOfRat (mkRat 1 64)) else valueOf t w

/-- The value of an MX element under its block's scale (R29); with no scale, the element's own value. -/
def mxValue (t : ETy) (scale : Option Byte) (w : Word) : FV :=
  match scale with
  | none => valueOf t w
  | some b => if b = 0xFF then .nan else fvMul (scaleValue b) (mxElement t w)

/-- `MxScale` (R39): the scale byte, the elements and the saturations counted. -/
def mxScale (x : List FV) (et : ETy) : Byte × List Word × Nat :=
  let bad := x.countP (fun v => match v with | .fin _ _ => false | _ => true)
  if bad ≠ 0 then (0xFF, x.map (fun _ => 0), bad)
  else
    let amax : Rat := x.foldl (fun acc v => match v with | .fin _ q => max acc (ratAbs q) | _ => acc) 0
    let X : Int := if amax = 0 then -127 else max (-127) (ilog2 amax - mxEmax et)
    let k : FV := fvOfRat (pow2 (-X) * if et = .i8 then 64 else 1)
    let es := x.map (fun v => convert (fvMul v k) et)
    (BitVec.ofInt 8 (X + 127), es.map Prod.fst, es.foldl (fun n c => n + c.2) 0)

/-! ### Summation orders (R40 to R45) -/

/-- `Combine` (R40). -/
def combine {α : Type} (op : α → α → α) (a b : Option α) : Option α :=
  match a, b with
  | none, b => b
  | a, none => a
  | some a, some b => some (op a b)

/-- One level of `Tree`: neighbours combined; the padding with Absent leaves a last odd element as it is. -/
def treeLevel {α : Type} (op : α → α → α) : List (Option α) → List (Option α)
  | a :: b :: r => combine op a b :: treeLevel op r
  | r => r

def treeLevels {α : Type} (op : α → α → α) : Nat → List (Option α) → List (Option α)
  | 0, l => l
  | n + 1, l => treeLevels op n (treeLevel op l)

/-- `Tree` (R40). -/
def tree {α : Type} (op : α → α → α) (l : List (Option α)) : Option α :=
  (treeLevels op (Nat.clog 2 l.length) l).head?.join

/-- An operation lifted to patterns that carry the saturations counted on the way. -/
def convOp (op : Word → Word → Conv) (a b : Conv) : Conv :=
  let r := op a.1 b.1
  (r.1, a.2 + b.2 + r.2)

/-- `SatInt32` (R41): the value and whether it saturated. -/
def satInt32 (v : Int) : Int × Nat :=
  if 2 ^ 31 - 1 < v then (2 ^ 31 - 1, 1) else if v < -(2 ^ 31) then (-(2 ^ 31), 1) else (v, 0)

/-- `FacetMerge` (R45): the home value and the holders' partials in slot order; an absent list leaves the home value. -/
def facetMerge (op : Word → Word → Word) (home : Word) (slots : List (Option Word)) : Word :=
  match tree op slots with
  | none => home
  | some m => op home m

/-- An f32 pattern's value. -/
def f32Val (w : Word) : FV := valueOf .f32 w

/-- An f32 result, rounded once. -/
def f32Of (v : FV) : Word := (convert v .f32).1

end Sys2Proof.Machine
end

