-- ==== Sys2Proof/Machine/Flags.lean ====
section
/-!
DEFINITION. Conditions: the machine has no flag register; what other machines keep in flags are the conditions of R93
and R99, computed where an instruction compares, and the Boolean results 0 and 1.
-/

namespace Sys2Proof.Machine

/-- The six conditions of `b.cc` and `bout.cc` (R93, R101). -/
inductive CondCode where
  | eq | ne | lt | ge | ltu | geu
  deriving DecidableEq, Repr, Inhabited

/-- `Cond` (R93). -/
def cond (cc : CondCode) (a b : Word) : Bool :=
  match cc with
  | .eq => decide (a = b)
  | .ne => decide (a ≠ b)
  | .lt => decide (a.toInt < b.toInt)
  | .ge => decide (b.toInt ≤ a.toInt)
  | .ltu => decide (a.toNat < b.toNat)
  | .geu => decide (b.toNat ≤ a.toNat)

/-- The result of a comparison in a scalar register. -/
def boolWord (b : Bool) : Word := if b then 1 else 0

end Sys2Proof.Machine
end

