-- ==== Sys2Proof/Config.lean ====
section
/-!
DEFINITION. What an implementation fixes, and the free values: constants without a body, so that nothing can be proved
from what they are. Each is named in the assumption log.
-/

namespace Sys2Proof

/-- Where a parity error shows in what a bank lookup unit reads (R299): nowhere, in the program word it fetches, or in the
table entry or index byte the word reads. -/
inductive Parity where
  | none | word | data
  deriving DecidableEq, Repr, Inhabited

/-- What the management path sets (R375 to R377, R379): the domain table's map of nodes, a node's route, the ports towards
the grandmaster, the Ethertypes of AHT and BFT, and an entry of the operating-point table of a die's rail: its frequency
step and, by temperature band, its voltages in mV. -/
inductive Managed where
  | domain (nodes : BitVec 2048)
  | route (node port : Nat)
  | clockPorts (ports : List Nat)
  | ethertypes (aht bft : BitVec 16)
  | opEntry (die rail : Nat) (entry : BitVec 3) (freq : Nat) (v0 v1 v2 v3 : Nat)
  deriving DecidableEq, Repr, Inhabited

/-- Whose move the next step is (log entry 1). The spec orders the device's agents only by the rules its steps name; a
turn that is not enabled leaves the state as it is (log entry 2). -/
inductive Turn where
  /-- the sequencer `side` of a hart slot executes the word at its PC -/
  | seq (slot : BitVec 12) (side : Side)
  /-- a thread of a bank lookup unit (R292) executes its kernel word; `arith` chooses the arithmetic thread, and
  `parity` says where a parity error shows in this step (R299) -/
  | blu (bank : BitVec 14) (arith : Bool) (parity : Parity)
  /-- time passes: the time base by `ns`, the running clocks by `cycles` (R343, R363) -/
  | tick (ns cycles : Nat)
  /-- the header of a frame of a class arrives from a link partner: its sequence number and its acknowledgement (R375) -/
  | header (link cls : Nat) (seq ack : BitVec 32)
  /-- the management path sets something (R376, R377, R379) -/
  | manage (m : Managed)
  /-- an uncorrectable error shows in a line of device memory or of a scratchpad (R165) -/
  | softError (line : Nat)
  /-- an uncorrectable error shows in bytes of a line that a core's L1 holds in state F (R233) -/
  | copyError (core line : Nat) (bytes : BitVec 128)
  /-- a sequencer's later load of `n` bytes inside one line performs ahead of the accesses before it (R220) -/
  | readAhead (slot : BitVec 12) (side : Side) (pa n : Nat)
  /-- a sequencer's load, the `i`-th of those that may, performs after the accesses behind it (R220) -/
  | lateLoad (slot : BitVec 12) (side : Side) (i : Nat)
  /-- a frame of a priority outside Table 18.5 arrives at a port (R374) -/
  | strayFrame (link priority : Nat)
  /-- a step of another agent of the device or of its surroundings -/
  | event (i : Instr)
  deriving DecidableEq, Repr, Inhabited

/-- The turn taken when the agenda is empty, by the number of such turns so far (log entry 1). -/
opaque Config.turn : Nat → Turn

/-- The bytes of a vector register after `vacq` or `vrel` (R122), by acquisition and position (log entry 13). -/
opaque Config.vregByte : Nat → Nat → Byte

/-- A table entry no `tbld` has built (R282), by bank and entry (log entry 14). -/
opaque Config.tableEntry : Nat → Nat → BitVec 32

/-- The bytes of an aborted result tile (R299), by a counter of the state and position (log entry 19). -/
opaque Config.abortByte : Nat → Nat → Byte

/-- The seed from which the device identity key was generated at manufacture, and the random value of a signature, by a counter of
the state (R373; log entry 17). -/
opaque Config.identitySeed : BitVec 256
opaque Config.signRandom : Nat → BitVec 256

/-- The package serial number (R373; log entry 17). -/
opaque Config.serial : BitVec 128

/-- Whether an ordinary access reaches the row's channel, and whether the row is kept open after it (R345; log entry 27),
by a counter of the state. -/
opaque Config.reachesRow : Nat → Bool
opaque Config.rowKept : Nat → Bool

/-- The power a die drew over the last millisecond, in mW (R382), by a counter of the state (log entry 15). -/
opaque Config.power : Nat → Nat → BitVec 32

/-- Where the scheduler places the context blocks (R86), in lines of 128 bytes (log entry 21). -/
opaque Config.blockArea : Nat

/-- The set of a cache that a line falls into (R170, R171), and whether an L2 slice that allocates a line of a compressible
page holds it compressed (R174), by cache or counter and line (log entry 63). -/
opaque Config.cacheSet : Nat → Nat → Nat
opaque Config.compresses : Nat → Nat → Bool

/-- The copy engine of its cluster that executes a command (Table 12.1), by the command's number (log entry 68). -/
opaque Config.copyEngine : Nat → Nat

/-- The number the scheduler gives a gang (Table 4.2), by the operation that posted it (log entry 35). -/
opaque Config.gangNumber : Nat → BitVec 64

/-- The operating-point entry of a rail at a service level (R370, R379), by level and rail (log entry 12). -/
opaque Config.railEntry : Nat → Nat → BitVec 3

end Sys2Proof
end

