-- ==== Sys2Proof/Machine/State.lean ====
section
/-!
DEFINITION. The state of an IK9-P: all the registers, memories, queues, tables and counters the spec gives it, and the
agenda that says which agent moves next. Plain data throughout.
-/

namespace Sys2Proof.Machine

/-! ### Sequencers and contexts -/

/-- A loop-stack entry (Table 4.4). -/
structure LoopEntry where
  index : Word
  remain : Word
  start : Word
  last : Word
  p : Bool
  deriving DecidableEq, Repr, Inhabited

/-- A fence in force (R206): later accesses of a class in `q` wait for the operations of classes in `p` numbered below
`cut`. -/
structure FenceRec where
  p : BitVec 5
  q : BitVec 5
  scope : BitVec 3
  cut : Nat
  deriving DecidableEq, Repr, Inhabited

/-- The instructions whose stall is a wait boundary (R274). A counter's waiter keeps its word's physical and virtual
address, target and, for `cwaitx`, ceiling; `satisfied` is such a waiter after its target was met (R339), with the address
and the value of an overrun found during a halt (R357). -/
inductive WaitKind where
  /-- `yield`, with the sequencers of the core that have not had their issue slot since (R266) -/
  | yield (owed : List (Nat × Side))
  /-- `wait`, with its set and bound -/
  | outstanding (set : BitVec 5) (limit : Word)
  | satisfied (ovr : Option (Word × Word))
  | counter (pa : Nat) (va target : Word) (ceiling : Option Word)
  deriving DecidableEq, Repr, Inhabited

/-- What a sequencer is doing. -/
inductive SeqStatus where
  /-- the record's A entry PC is 0 (R11) -/
  | idle
  | running
  /-- it has executed `done` (R265) -/
  | done
  /-- stalled in `yield`, `cwait`, `cwaitx` or `wait` -/
  | waiting (w : WaitKind)
  /-- stalled in `tat` until a time (R344) -/
  | until (t : Word)
  /-- in the wait of `hinv` for PIN = 0 of a handle slot (R320) -/
  | pinWait (slot : Nat)
  /-- it stands at a faulting word until release (R355) -/
  | faulted
  deriving DecidableEq, Repr, Inhabited

/-- What a stalled sequencer waits for, as far as the performance counters tell it apart (Table 16.5). -/
inductive StallWhy where
  | none | queue | tile
  /-- the core's matrix engine (R207) -/
  | engine
  deriving DecidableEq, Repr, Inhabited

/-- A load that may still perform (R220; log entry 4): its destination, an x or o register or, from byte `off`, a v register;
how many results the last-result file has taken since the load's own; its physical address and its bytes, and whether they
are sign-extended. -/
structure LateLoad where
  dst : Spec
  off : Nat
  back : Nat
  pa : Nat
  n : Nat
  sx : Bool
  deriving DecidableEq, Repr, Inhabited

/-- What is held per sequencer (Tables 4.1 and 4.2). -/
structure Seq where
  pc : Word
  x : Vector Word 32
  live : BitVec 32
  o : Vector Word 8
  l : Vector Word 4
  /-- the loop-index stack, innermost first, at most six entries (R74) -/
  loops : List LoopEntry
  rl : Word
  tl : Word
  fences : List FenceRec
  status : SeqStatus
  /-- it stands at a loop boundary (R107) -/
  atBound : Bool
  /-- the x registers its register cache holds, most recently used first, at most sixteen (R84) -/
  rc : List (BitVec 5)
  /-- the cached registers written since their last fill or write-back, and those just evicted with such a value, whose
  write to the context block comes with the end of the instruction (R85) -/
  dirty : BitVec 32
  evicted : List (BitVec 5)
  why : StallWhy
  /-- reads performed ahead of the loads they belong to: physical address and bytes (R220) -/
  ahead : List (Nat × List Byte)
  /-- loads that may still perform after the accesses behind them (R220) -/
  late : List LateLoad
  /-- the number of the next operation at its last acquire (R222, R223) -/
  acq : Nat
  deriving DecidableEq, Repr, Inhabited

/-- A vector register: its tag and its 1,024 × slices bytes (R75). -/
structure VReg where
  tag : ETy
  data : List Byte
  deriving DecidableEq, Repr, Inhabited

/-- An accumulator: its tag and its elements that are not zero, by 32 × row + column (R77). -/
structure Acc where
  tag : ETy
  el : Tab (BitVec 32)
  deriving DecidableEq, Repr, Inhabited

/-- The states of a tile (Table 14.5). -/
inductive TileSt where
  | empty | filling | ready | draining
  deriving DecidableEq, Repr, Inhabited

/-- A tile-table entry (Table 14.5). -/
structure Tile where
  st : TileSt
  defined : Bool
  ab : Bool
  ty : ETy
  pf : Bool
  mx : Bool
  sn : BitVec 2
  nr : Nat
  base : Nat
  rows : Nat
  rlen : Nat
  deriving DecidableEq, Repr, Inhabited

/-- An entry of q0 to q3: its value; whether it is a stream's, read ahead by a load stream or pushed for a store stream
(R256 to R258); the number of its operation; for a store stream's element, the physical address and the leaf its push
found, its virtual address and the push's (R257). -/
structure QEnt where
  val : Word
  stream : Bool
  id : Nat
  pa : Nat
  leaf : Word
  va : Word
  pc : Word
  /-- the element goes to the own node through the fabric window (R159) -/
  own : Bool
  /-- a load stream's element, pushed before an acquire of the owner, after the end of the binding: it is read again before
  its pop (R256) -/
  stale : Bool
  deriving DecidableEq, Repr, Inhabited

/-- A stream binding (Table 12.3); `own` is the owning sequencer (R255). -/
structure Binding where
  next : Word
  remain : BitVec 32
  stride : BitVec 24
  z : BitVec 3
  sx : Bool
  dir : Bool
  bound : Bool
  own : Side
  deriving DecidableEq, Repr, Inhabited

/-- What a stop record says of a fault (Table 17.4). `cmd` is the engine command or the task the fault belongs to. -/
structure FaultInfo where
  code : BitVec 8
  sq : Side
  slot : BitVec 12
  e : Bool
  fl : Bool
  lvl : BitVec 2
  time : Word
  pc : Word
  addr : Word
  val : Word
  info : BitVec 16
  probe : Option (List (BitVec 2 × Word) × Bool)
  cmd : Option Nat
  deriving DecidableEq, Repr, Inhabited

/-- Where a context is (R358). -/
inductive Place where
  | inSlot (slot : Nat) | mirror (slot : Nat) | out
  deriving DecidableEq, Repr, Inhabited

/-- A context: one dispatched iteration (R70). -/
structure Ctx where
  part : Nat
  core : Nat
  task : Nat
  gang : Word
  prio : BitVec 2
  iter : Nat
  cblk : Nat
  place : Place
  /-- its block holds it -/
  saved : Bool
  lastSlot : Nat
  /-- when it began to run, for the choice of R275 -/
  since : Nat
  a : Seq
  x : Seq
  vl : Word
  slices : Nat
  first : Nat
  v : Vector VReg 32
  /-- the mask stack, top first, at most eight entries (R76) -/
  masks : List (BitVec 12288)
  acc0 : Acc
  acc1 : Acc
  tiles : Vector Tile 32
  q : Vector (List QEnt) 4
  w : Vector (List VReg) 2
  bq : List Bool
  binds : Vector Binding 4
  fault : Option FaultInfo
  mf : Bool
  deriving DecidableEq, Repr, Inhabited

/-- What is staged: a context to resume, or a task's next iteration with the slice group acquired for it (R89, R364). -/
inductive Incoming where
  | ctx (key : Nat) | new (task first n : Nat)
  deriving DecidableEq, Repr, Inhabited

/-- A mirror bank (R89, R90). -/
inductive Mirror where
  | empty | staging (i : Incoming) | staged (i : Incoming) | spilling (ctx : Nat)
  deriving DecidableEq, Repr, Inhabited

/-- A pending pre-emption request (R275): the requesting task, its priority and the cycles since the request. -/
structure Request where
  task : Nat
  prio : BitVec 2
  cycles : Nat
  deriving DecidableEq, Repr, Inhabited

/-- A hart slot: the context in it and what is held per slot (Table 4.2). -/
structure Slot where
  ctx : Option Nat
  mirror : Mirror
  sat : Vector Word 8
  satthr : Word
  satwin : Word
  /-- the saturation window in progress: start, increments counted, whether its event is written (R350) -/
  winStart : Nat
  winCount : Nat
  winFired : Bool
  pm : Vector Word 16
  wdogCount : Nat
  wdogLimit : Nat
  request : Option Request
  /-- the register-cache miss in progress (R84) -/
  fill : Option (Side × BitVec 5)
  deriving DecidableEq, Repr, Inhabited

/-! ### Scheduler -/

/-- A loop-nest record (Tables 12.4 and 12.5), as its words. -/
structure LnRec where
  control : Word
  xentry : Word
  aentry : Word
  extents : Vector (BitVec 32) 6
  launch : Word
  caddr : Word
  args : Word
  res : Word
  reads : Vector Word 3
  writes : Vector Word 3
  deriving DecidableEq, Repr, Inhabited

/-- The pool entry a task holds (R264). -/
inductive PoolEntry where
  | shared | reserved | released
  deriving DecidableEq, Repr, Inhabited

/-- The write policies of a page (Table 14.4). -/
inductive WPolicy where
  | update | invalidate | stream
  deriving DecidableEq, Repr, Inhabited

/-- An accepted task of a cluster (R264 to R273). -/
structure Task where
  part : Nat
  cluster : Nat
  rcd : LnRec
  /-- the address `post` named, for the detached record (R361) -/
  recAddr : Word
  /-- the completion counter as `post` translated it (R262), with the write policy of its page (R336) -/
  counter : Nat × WPolicy
  pool : PoolEntry
  /-- has entered the in-flight window (R268) -/
  entered : Bool
  deps : List Nat
  prio : BitVec 2
  /-- the posting core, and the number up to which its stores are released by the `post` (R262) -/
  relCore : Nat
  relCut : Nat
  /-- iterations dispatched and ended so far -/
  dispatched : Nat
  ended : Nat
  launched : Bool
  prepared : Bool
  /-- ns spent dispatchable since the last rise of its priority (R273) -/
  readyNs : Nat
  /-- its completion add is on its way (R270) -/
  addSent : Bool
  /-- per core, the number of the next operation when an iteration of it ended there last: what happened before it there is
  numbered below (R224) -/
  cuts : Tab Nat
  deriving DecidableEq, Repr, Inhabited

/-! ### Memory and coherence -/

/-- The access classes (Table 8.1). -/
inductive AClass where
  | s | v | e | t | i
  deriving DecidableEq, Repr, Inhabited

/-- How far a write-through has come (R235, R248, R249): still on its way to its home; held there until the host has
dropped its copy; sent to the host or to another package and waiting for the answer; stopped by a fault until the release
(R355, R361). -/
inductive WtPhase where
  | toHome | hostCopy | answer (tag : Nat) | stopped
  deriving DecidableEq, Repr, Inhabited

/-- What a write-through does at its home: a store of its bytes, or a counter add with its predecessor set, scope and the
number up to which operations precede it (R338); or a task's completion add. -/
inductive WtKind where
  | store
  | cadd (inc : Word) (p : BitVec 5) (scope : BitVec 3) (cut : Nat)
  /-- a task's completion add (R270) -/
  | taskAdd (inc : Word)
  /-- bits [3:0] of one byte, by an atomic read-modify-write of its word outside the package; `guess` is the word as it was
  last seen (R188, R200) -/
  | half (v : Byte) (guess : Word)
  deriving DecidableEq, Repr, Inhabited

/-- A store on its way: bytes inside one 128-byte line. `ctx` and `side` are the issuing sequencer's; `cmd` is the engine
command a write belongs to. -/
structure Wt where
  kind : WtKind
  ctx : Nat
  task : Nat
  iter : Nat
  slot : Nat
  side : Side
  core : Nat
  part : Nat
  cls : AClass
  cmd : Option Nat
  pa : Nat
  bytes : List Byte
  policy : WPolicy
  /-- cache level L1+L2, which privatisation asks for (R245) -/
  l1 : Bool
  /-- the instruction's address, and the virtual address and element index of the first byte, for a fault -/
  pc : Word
  va : Word
  elem : Nat
  phase : WtPhase
  /-- the queue whose store stream it belongs to (R257) -/
  strm : Option Nat
  /-- the priority at which the home allocates the line for it, where it does, and whether the page is compressible
  (R172, R180) -/
  alloc : Option (Nat × Bool)
  /-- it goes to the own node through the fabric window: an uncached access (R159) -/
  own : Bool
  /-- the instruction it belongs to, by the number of its first operation -/
  op : Nat
  deriving DecidableEq, Repr, Inhabited

/-- A facet partial or a DISJ copy in an L1 (R239, R245): 128 bytes, and per byte whether it is touched, or owned under
DISJ. -/
structure Partial where
  tag : BitVec 4
  bytes : List Byte
  touched : BitVec 128
  /-- the bytes that hold an uncorrectable error (R233) -/
  bad : BitVec 128
  deriving DecidableEq, Repr, Inhabited

/-- Directory states (Table 11.3). -/
inductive DirSt where
  | uncached | shared | owned (o : Owner) | faceted (tag : BitVec 4) | gathering
  deriving DecidableEq, Repr, Inhabited

/-- A directory entry (R232, R236, R240). -/
structure DirEntry where
  st : DirSt
  /-- the tracked sharers, or the map of clusters once a ninth arrived -/
  sharers : List Nat
  map : Option (BitVec 16)
  /-- the cores holding the line in F -/
  holders : List Nat
  /-- per slot, the cores it is assigned to, parked ones included (R240, R241) -/
  assigned : Tab (List Nat)
  /-- the parked partials by slot (R243) -/
  parked : Tab Partial
  /-- the write-throughs in succession that R245 counts: core and byte mask -/
  writers : List (Nat × BitVec 128)
  deriving DecidableEq, Repr, Inhabited

/-- A line in a set of a cache (R170, R171, R173): its eviction priority, and whether it is held compressed (R174). -/
structure CLine where
  line : Nat
  prio : Nat
  comp : Bool
  deriving DecidableEq, Repr, Inhabited

/-- A host line the package holds copies of (R248): its bytes, its poison bit, the caches that hold it, and as the
host-line directory tracks them: the sharers, or the map of clusters once a ninth arrived (R236). -/
structure HostLine where
  bytes : List Byte
  ps : Bool
  holders : List Nat
  sharers : List Nat
  map : Option (BitVec 16)
  deriving DecidableEq, Repr, Inhabited

/-- A leaf translation in a translation cache (R304). -/
structure Tlb where
  part : Nat
  va : Nat
  size : Nat
  leaf : Word
  deriving DecidableEq, Repr, Inhabited

/-- Who waits for an answer of the host or of another package. -/
inductive Asker where
  | seq (ctx : Nat) (side : Side) | stream (ctx q : Nat) | wt (id : Nat) | cmd (id : Nat)
  /-- the fetch of a sequencer's next word -/
  | fetch (ctx : Nat) (side : Side)
  /-- a line's home, for a request it serves -/
  | home
  /-- a cache that a `pf` fills (R185) -/
  | fill (cache : Nat)
  deriving DecidableEq, Repr, Inhabited

/-- An access that waits in the queue of a bank's channel for the end of a wave (R164): the bank, who waits, for a
sequencer the PC it stands at, and its number among the operations. -/
structure BankWait where
  bank : Nat
  who : Asker
  pc : Word
  id : Nat
  deriving DecidableEq, Repr, Inhabited

/-- A write of the device itself to a context block, made through a core's L1 (R86, R91): for which partition. -/
structure BlockWrite where
  part : Nat
  core : Nat
  pa : Nat
  bytes : List Byte
  deriving DecidableEq, Repr, Inhabited

/-- An outstanding request: what it asked (message code and address), when it was sent, on which link. -/
structure Ask where
  who : Asker
  code : Nat
  addr : Nat
  extra : Nat
  link : Nat
  sent : Nat
  deriving DecidableEq, Repr, Inhabited

/-- An answer that has come for a sequencer or command: the bytes or the old value, its poison bit, its status. -/
structure Answer where
  ask : Ask
  bytes : List Byte
  ps : Bool
  denied : Bool
  deriving DecidableEq, Repr, Inhabited

/-- A message: link, destination node (0 on AHT), message code (Tables 11.6, 18.4 and 18.7), the other header fields that
its sender chooses, and its payload bytes. -/
structure Msg where
  link : Nat
  dnode : Nat
  code : Nat
  part : Nat
  tag : Nat
  addr : Nat
  status : Nat
  ps : Bool
  payload : List Byte
  deriving DecidableEq, Repr, Inhabited

/-- A frame as it goes out (Table 18.6): Ethertype, version, sequence number, acknowledgement, source node, message. -/
structure Frame where
  eth : BitVec 16
  ver : BitVec 4
  seq : BitVec 32
  ack : BitVec 32
  snode : Nat
  msg : Msg
  deriving DecidableEq, Repr, Inhabited

/-- A waiter of another package on a counter word (R376). -/
structure Waiter where
  snode : Nat
  part : Nat
  tag : Nat
  pa : Nat
  target : Word
  deriving DecidableEq, Repr, Inhabited

/-! ### Engines -/

/-- Who issued an engine command, and what its completion needs (R196, R199, R270). -/
structure Issuer where
  ctx : Nat
  slot : Nat
  side : Side
  core : Nat
  part : Nat
  task : Nat
  iter : Nat
  pc : Word
  word : Word
  scope : BitVec 3
  /-- handle slot whose pin it holds -/
  pin : Option Nat
  /-- the command's number, and the translation cache of the engine that executes it -/
  id : Nat
  unit : Nat
  deriving DecidableEq, Repr, Inhabited

/-- One side of a copy: a virtual address, a tile of the issuer, or bytes of a handle's region. -/
inductive Loc where
  | va (a : Word)
  | tile (t : Nat) (base : Nat)
  | hand (stack lo nrow : Nat) (off : Word)
  deriving DecidableEq, Repr, Inhabited

/-- What `kvgth` captures of a block-table entry and its page at issue (R328): the page's address, the position base, the
format and the two scales. -/
structure KvEnt where
  page : Word
  base : Int
  fmt : Nat
  ksc : BitVec 32
  vsc : BitVec 32
  deriving DecidableEq, Repr, Inhabited

/-- A copy-engine or collective command with its captured operands. -/
inductive CmdKind where
  | cpy (d a : Loc) (b : Word) (dt st : ETy)
  | cpyg (d a : Loc) (b c rl : Word) (dt st : ETy)
  | drain (d : Word) (t : Nat) (tile : Tile) (scales : Word) (mx : Bool) (dt : ETy)
  | coll (fn : BitVec 8) (op : BitVec 4) (dt t : ETy) (d a : Word) (count : Nat)
      (gtag seq : BitVec 32) (n rank root : Nat) (rtab : Word)
  | kvgth (t : Nat) (tile : Tile) (v : Bool) (first n : Nat) (ents : List KvEnt) (rot : Option (Bool × List Nat))
  | kvapp (st : ETy) (fmt dc : BitVec 2) (a b c : Word) (kvpool kvpages : Word)
  deriving DecidableEq, Repr, Inhabited

/-- A queued engine command: `faulted` while a fault holds it until the release; `stage` 0 as issued, 1 with its
contribution to a collective published, 2 with its writes made or on their way. `lines` are the device lines of its
destination as far as they were known at issue (R198); `sats` the saturations of its work, counted at its completion
(R82). -/
structure Cmd where
  issuer : Issuer
  kind : CmdKind
  faulted : Bool
  stage : Nat
  lines : List Nat
  sats : Nat
  deriving DecidableEq, Repr, Inhabited

/-- A rank's contribution to a collective from another package or die (R204). -/
structure CollPart where
  part : Nat
  gtag : BitVec 32
  seq : BitVec 32
  rank : Nat
  shape : CollShape
  bytes : List Byte
  deriving DecidableEq, Repr, Inhabited

/-- A bank command descriptor (Table 13.3). -/
structure BankDesc where
  aentry : BitVec 10
  xentry : BitVec 10
  klo : BitVec 10
  khi : BitVec 10
  bank0 : Nat
  nbank : Nat
  ncol : Nat
  slot : BitVec 6
  b : Nat
  g : Nat
  gb : Nat
  tb : Nat
  ot : Bool
  sact : BitVec 32
  p : Vector (BitVec 32) 8
  deriving DecidableEq, Repr, Inhabited

/-- A codebook slot (R279, Table 13.2). -/
structure Codebook where
  c : BitVec 128
  scale : BitVec 32
  b : BitVec 3
  deriving DecidableEq, Repr, Inhabited

inductive BankKind where
  | cbld (slot : Nat) (book : Codebook) (dies : List Nat)
  | tbld (desc : BankDesc) (act : Word)
  | lkac (desc : BankDesc) (n : Nat) (t : Tile)
  | bkst (desc : BankDesc) (res : Option (Nat × Tile))
  | bpld (w0 : Nat) (words : List (BitVec 32))
  deriving DecidableEq, Repr, Inhabited

/-- A bank command in its die's queue; `startNo` orders the commands that run (R291). `sums` are the lens adder's column
sums, `scale` is S, captured at start; `stack`, `lo` and `nrow` are the handle's region. -/
structure BankCmd where
  issuer : Issuer
  kind : BankKind
  die : Nat
  stack : Nat
  lo : Nat
  nrow : Nat
  handle : Word
  started : Bool
  faulted : Bool
  aborted : Bool
  startNo : Nat
  /-- the codebook slot as captured at the start (R297) -/
  book : Option Codebook
  scale : BitVec 32
  sums : Tab Int
  sats : Nat
  /-- rows of the result tile the lens adder has drained (R289) -/
  drained : Nat
  /-- the stack-local bank last served by a wave (R291) -/
  lastBank : Option Nat
  deriving DecidableEq, Repr, Inhabited

/-- A kernel thread's loop entry: register advanced (address thread), step, index, remaining, first and last word. -/
structure KLoop where
  reg : BitVec 3
  step : BitVec 7
  index : Nat
  remain : Nat
  start : Nat
  last : Nat
  deriving DecidableEq, Repr, Inhabited

/-- A bank lookup unit's registers and queues (R78, R292). -/
structure Blu where
  n : Vector (BitVec 32) 8
  p : Vector (BitVec 32) 8
  z : Vector (BitVec 32) 64
  iq : List (List Byte)
  sq : List (BitVec 32)
  ib : List Byte
  apc : Nat
  xpc : Nat
  aEnded : Bool
  xEnded : Bool
  aLoops : List KLoop
  xLoops : List KLoop
  openRow : Option Nat
  /-- the word of the last `b.xend`, for R289 -/
  endWord : Nat
  sent : Nat
  /-- the command whose kernel it runs -/
  cmd : Option Nat
  deriving DecidableEq, Repr, Inhabited

/-- A wave in progress on a die (R291): the banks selected that have not stopped, and the idle slots. -/
structure Wave where
  banks : List Nat
  idle : Nat
  deriving DecidableEq, Repr, Inhabited

/-- A matrix instruction in progress (R207): for `mst` its tile, for `tpln` its tile's entry as it will be. -/
inductive MxKind where
  | mm | mld | mst (t : Nat) (tile : Tile) | tpln (t : Nat) (tile : Tile)
  deriving DecidableEq, Repr, Inhabited

structure MxOp where
  ctx : Nat
  slot : Nat
  id : Nat
  kind : MxKind
  /-- saturations of its conversions, counted at its completion (R82) -/
  sats : Nat
  deriving DecidableEq, Repr, Inhabited

/-! ### Device -/

/-- A handle-table slot (Table 14.9). -/
structure Handle where
  valid : Bool
  hr : Bool
  hw : Bool
  stk : Nat
  gen : BitVec 32
  lo : Nat
  nrow : Nat
  pin : Nat
  deriving DecidableEq, Repr, Inhabited

/-- A partition (R366), its state words (Table 4.2), handle table and halt line (R353). -/
structure Part where
  configured : Bool
  clus : BitVec 16
  gran : BitVec 512
  breg : Vector (Nat × Nat) 8
  root : Word
  stbase : Word
  ptroot : Word
  evlog : Word
  evcap : Nat
  kvpool : Word
  kvpages : Word
  prism : Word
  evmask : Word
  wdog : BitVec 32
  chain : BitVec 5
  handles : Tab Handle
  line : Bool
  halted : Bool
  /-- the stop record with FL = 1, by its number in the stop table (R355, R358) -/
  fl : Option Nat
  deriving DecidableEq, Repr, Inhabited

/-- An entry of a rail's operating-point table (R379): a frequency step and the voltages of the four temperature bands. -/
structure OpEntry where
  freq : Nat
  volts : Vector Nat 4
  deriving DecidableEq, Repr, Inhabited

/-- A rail of a die (R379): its operating-point table, its current entry, and the frequency step and the voltage that it has
reached. -/
structure Rail where
  table : Vector OpEntry 8
  entry : BitVec 3
  freq : Nat
  volt : Nat
  deriving DecidableEq, Repr, Inhabited

/-- What is held per die (Table 4.2; R279, R291, R379 to R384). -/
structure Die where
  bankmax : BitVec 13
  bkidle : BitVec 4
  cb : Vector Codebook 64
  wave : Option Wave
  band : Nat
  throttle : Nat
  noc : Nat
  /-- the junction band, which indexes the voltages (R384) -/
  jband : Nat
  rails : Vector Rail 5
  deriving DecidableEq, Repr, Inhabited

/-- What is held per stack (R162, R279). `prog` lists the loadable words that differ from 0. -/
structure Stack where
  prog : Tab (BitVec 32)
  hot : Bool
  deriving DecidableEq, Repr, Inhabited

/-- A port (R374, R375): 0 is the host port, 1 + 2 × die + k the fabric ports. Frames are numbered by class: the next to go
out and the next expected from the partner. -/
structure Link where
  up : Bool
  paused : List Nat
  txNext : Tab Nat
  rxNext : Tab Nat
  unacked : List (Nat × Msg)
  /-- frames not yet sent: the port is down or their class is paused -/
  held : List (Nat × Msg)
  discarded : Nat
  deriving DecidableEq, Repr, Inhabited

/-- The agent whose turn it is: hart slot and side, or bank and thread; `word` is the word it executes. -/
structure Cur where
  slot : Nat
  side : Side
  bank : Nat
  arith : Bool
  parity : Parity
  word : Word
  /-- the load stream that reads its next element, by its queue -/
  strm : Option Nat
  /-- the number the turn's first operation takes -/
  op : Nat
  /-- the loads of device memory and scratchpads so far in the turn: element, physical address and bytes (R220) -/
  reads : List (Nat × Nat × Nat)
  deriving DecidableEq, Repr, Inhabited

/-- The whole machine. Tables list only what differs from its reset value. -/
structure State where
  booted : Bool
  powered : Bool
  now : Nat
  rate : Int
  svc : BitVec 2
  actalert : BitVec 16
  actmgmt : BitVec 8
  node : BitVec 11
  domain : BitVec 2048
  routes : Tab Nat
  /-- the ports towards the grandmaster (R377), and the Ethertypes of AHT and BFT (R375) -/
  clockPorts : List Nat
  ethAht : BitVec 16
  ethBft : BitVec 16
  m0 : BitVec 512
  m1 : BitVec 512
  m2 : BitVec 512
  m3 : BitVec 512
  /-- bytes by physical address: device memory and scratchpads (R157); unlisted bytes are 0 -/
  mem : List Host.Cell
  /-- the poisoned lines (R165) -/
  poison : List Nat
  /-- the caches holding a device line in S (R234) -/
  copies : Tab (List Nat)
  /-- the sets of the L1s, pool caches and L2 slices, least recently used line first: by 1,024 × cache + set, an L2 slice
  being cache 2,048 + 16 × cluster + slice (R170, R171) -/
  sets : Tab (List CLine)
  /-- evictions a cache has made whose notice, or partial, has not reached the home: cache and line (R236, R243) -/
  notices : List (Nat × Nat)
  /-- partials, by 2,048 × line + core -/
  partials : Tab Partial
  dir : Tab DirEntry
  wts : Tab Wt
  hostdir : List (Nat × HostLine)
  asks : Tab Ask
  answers : Tab Answer
  /-- accesses in the channel queues of banks in a wave (R164) -/
  bankWaits : List BankWait
  /-- the host's and other packages' requests that a wave holds at their homes, oldest first (R164) -/
  held : List Instr
  /-- page walks in flight, which wait: of load streams and of commands, with the number at which each began (R227, R341) -/
  walks : List (Asker × Nat)
  /-- writes of the device itself to context blocks that wait for the host, a wave or a link, oldest first (R8, R91, R164,
  R249) -/
  blockq : List BlockWrite
  /-- host lines whose Recall is held until the `amo` that owns them completes (R249) -/
  recalls : List Nat
  waiters : List Waiter
  collIn : List CollPart
  slots : Tab Slot
  ctxs : Tab Ctx
  tasks : Tab Task
  /-- per core, the matrix engine's instruction in progress -/
  mx : Tab MxOp
  /-- per core, the hart slot whose instruction its matrix engine began last (R207) -/
  mxLast : Tab Nat
  /-- the translation caches: of core n by n, of copy engine e of cluster c by 2,048 + 4 × c + e, of cluster c by 4,096 + c
  (Table 14.1) -/
  tlb : Tab (List Tlb)
  /-- engine commands by number: copy engines and collective engines -/
  cmds : Tab Cmd
  bankCmds : Tab BankCmd
  /-- per cluster, the detached fault and its MF (R361) -/
  detached : Tab (FaultInfo × Bool)
  parts : Tab Part
  dies : Tab Die
  stackMem : Tab Stack
  /-- BLU registers by bank (2,048 × stack + stack-local bank) -/
  blus : Tab Blu
  /-- built table entries by 1,024 × bank + entry -/
  tables : Tab (BitVec 32)
  /-- activation and disturbance counts by 32,768 × bank + row, alert counts by bank (R345 to R348) -/
  acts : Tab Nat
  dists : Tab Nat
  alerts : Tab Nat
  /-- the banks in back-off (R347) -/
  backoff : List Nat
  /-- the number of the 1 ms window the alerts count in (R347) -/
  alertWin : Nat
  /-- lines of ordinary accesses their channels have not seen yet, oldest first, with whether the home slice served the
  access, and the row each bank keeps open for them (R345; log entry 27) -/
  chan : List (Nat × Bool)
  openRows : Tab Nat
  /-- refresh management and refreshes waiting for the end of a wave, by bank -/
  pendingRfm : Tab (List Nat)
  postponed : Tab (List Nat)
  links : Tab Link
  /-- consecutive failed retries by 8 × link + module, and failed flags, of the edges 0 to 3 and the stack interfaces 16 to
  23 (R378) -/
  edgeRetries : Tab Nat
  edgeDown : List Nat
  /-- event records that wait for the host to give up a line of the log: partition and record (R249, R277) -/
  evq : List (Nat × Nat)
  /-- frames sent, oldest first -/
  out : List Frame
  /-- the model's own fields: agenda and turn count (log entry 1), the agent at work, the counter of free values (log
  entry 19) and the number the next operation takes -/
  agenda : List Turn
  turnNo : Nat
  cur : Cur
  free : Nat
  ids : Nat
  deriving DecidableEq, Repr

/-! ### Reset -/

def LoopEntry.zero : LoopEntry := ⟨0, 0, 0, 0, false⟩

def Seq.reset : Seq :=
  { pc := 0, x := Vector.replicate 32 0, live := 0, o := Vector.replicate 8 0, l := Vector.replicate 4 0, loops := [],
    rl := 0, tl := 0, fences := [], status := .idle, atBound := false, rc := [], dirty := 0,
    evicted := [], why := .none, ahead := [], late := [], acq := 0 }

def Acc.reset : Acc := ⟨.none, []⟩

/-- An undefined tile: DEF = 0, its other fields 0 (R307). -/
def Tile.undefined : Tile := ⟨.empty, false, false, .none, false, false, 0, 0, 0, 0, 0⟩

def Binding.unbound : Binding := ⟨0, 0, 0, 0, false, false, false, .a⟩

def Ctx.reset : Ctx :=
  { part := 0, core := 0, task := 0, gang := 0, prio := 0, iter := 0, cblk := 0, place := .out, saved := false, lastSlot := 0,
    since := 0, a := Seq.reset, x := Seq.reset, vl := 0, slices := 0, first := 0, v := Vector.replicate 32 ⟨.none, []⟩,
    masks := [], acc0 := Acc.reset, acc1 := Acc.reset, tiles := Vector.replicate 32 Tile.undefined,
    q := Vector.replicate 4 [], w := Vector.replicate 2 [], bq := [], binds := Vector.replicate 4 Binding.unbound,
    fault := none, mf := false }

/-- Every word held per slot starts at 0 (Table 4.2, R363). -/
def Slot.reset : Slot :=
  { ctx := none, mirror := .empty, sat := Vector.replicate 8 0, satthr := 0, satwin := 0, winStart := 0, winCount := 0,
    winFired := false, pm := Vector.replicate 16 0, wdogCount := 0, wdogLimit := 0, request := none, fill := none }

def Handle.reset : Handle := ⟨false, false, false, 0, 0, 0, 0, 0⟩

def Part.reset : Part :=
  { configured := false, clus := 0, gran := 0, breg := Vector.replicate 8 (0, 0), root := 0, stbase := 0, ptroot := 0,
    evlog := 0, evcap := 0, kvpool := 0, kvpages := 0, prism := 0, evmask := 0, wdog := 65536, chain := 0x1F,
    handles := [], line := false, halted := false, fl := none }

/-- Codebook slots start with entries 0, scale +0 and b = 1 (R279). -/
def Codebook.reset : Codebook := ⟨0, 0, 1⟩

def Rail.reset : Rail := ⟨Vector.replicate 8 ⟨0, Vector.replicate 4 0⟩, 0, 0, 0⟩

/-- sw.bankmax starts at 4,096 and sw.bkidle at 0 (Table 4.2); bands 0, throttle step 0, network step 0 and empty
operating-point tables (log entry 12). -/
def Die.reset : Die :=
  { bankmax := 4096, bkidle := 0, cb := Vector.replicate 64 Codebook.reset, wave := none, band := 0, throttle := 0,
    noc := 0, jband := 0, rails := Vector.replicate 5 Rail.reset }

def Stack.reset : Stack := ⟨[], false⟩

def Blu.reset : Blu :=
  { n := Vector.replicate 8 0, p := Vector.replicate 8 0, z := Vector.replicate 64 0, iq := [], sq := [],
    ib := List.replicate 32 0, apc := 0, xpc := 0, aEnded := true, xEnded := true, aLoops := [], xLoops := [],
    openRow := none, endWord := 0, sent := 0, cmd := none }

def Link.reset : Link := ⟨true, [], [], [], [], [], 0⟩

def DirEntry.reset : DirEntry := ⟨.uncached, [], none, [], [], [], []⟩

/-- Power has just come on: nothing has booted, nothing is configured, memory is zero (R79, R156, R371; log entry 12). -/
def State.reset : State :=
  { booted := false, powered := true, now := 0, rate := 0, svc := 0, actalert := 1024, actmgmt := 4, node := 0,
    domain := 0, routes := [], clockPorts := [], ethAht := 0x88B5, ethBft := 0x88B6, m0 := 0, m1 := 0,
    m2 := 0, m3 := 0, mem := [], poison := [], copies := [], sets := [],
    notices := [], partials := [], dir := [], wts := [], hostdir := [], asks := [], answers := [], bankWaits := [],
    held := [], walks := [], blockq := [], recalls := [], waiters := [], collIn := [], slots := [], ctxs := [],
    tasks := [], mx := [], mxLast := [], tlb := [], cmds := [],
    bankCmds := [], detached := [], parts := [], dies := [], stackMem := [], blus := [], tables := [], acts := [],
    dists := [], alerts := [], backoff := [], alertWin := 0, chan := [], openRows := [], pendingRfm := [],
    postponed := [], links := [], edgeRetries := [], edgeDown := [], evq := [], out := [], agenda := [], turnNo := 0,
    cur := ⟨0, .x, 0, false, .none, 0, none, 0, []⟩, free := 0, ids := 0 }

/-- Reasons to stop. No instruction of this model stops the machine with one: the spec's faults halt a partition and
are next states (log entry 3). -/
inductive Fault where
  /-- raised by `step` while the package has no power (R383) and the turn is not the power-on that alone brings it back.
  Safe. -/
  | noPower
  deriving DecidableEq, Repr

/-- Reasons to refuse. -/
inductive Refusal where
  /-- raised by `exec` for an instruction that has no meaning here yet. Safe. -/
  | notModelled (mnemonic : String)
  deriving DecidableEq, Repr

end Sys2Proof.Machine
end

