-- ==== Sys2Proof/Machine/Tab.lean ====
section
/-!
DEFINITION. Tables keyed by numbers, the bytes of memory, and little-endian numbers in bytes (R4).
-/

namespace Sys2Proof.Machine

/-- The entry of a key. -/
def tabGet {α : Type} : Tab α → Nat → Option α
  | [], _ => none
  | (j, v) :: r, k => if j = k then some v else tabGet r k

/-- The entry of a key, or `d` for a key that is not listed. -/
def tabD {α : Type} (t : Tab α) (k : Nat) (d : α) : α := (tabGet t k).getD d

def tabDel {α : Type} (t : Tab α) (k : Nat) : Tab α := t.filter (fun e => e.1 ≠ k)

/-- A new key's entry at its place in a rising table. -/
def tabIns {α : Type} : Tab α → Nat → α → Tab α
  | [], k, v => [(k, v)]
  | (j, w) :: r, k, v => if k < j then (k, v) :: (j, w) :: r else (j, w) :: tabIns r k v

def tabPut {α : Type} (t : Tab α) (k : Nat) (v : α) : Tab α := tabIns (tabDel t k) k v

/-- A table whose keys rise strictly. -/
abbrev tabWf {α : Type} (t : Tab α) : Prop := (t.map Prod.fst).Pairwise (· < ·)

/-! ### Memory: rising addresses, no entry 0; an unlisted byte is 0 (R156) -/

def memByte (m : List Host.Cell) (a : Nat) : Byte := tabD m a 0

def memSet (m : List Host.Cell) (a : Nat) (b : Byte) : List Host.Cell := if b = 0 then tabDel m a else tabPut m a b

def memRead (m : List Host.Cell) (a n : Nat) : List Byte := (List.range n).map (fun i => memByte m (a + i))

def memWrite (m : List Host.Cell) : Nat → List Byte → List Host.Cell
  | _, [] => m
  | a, b :: r => memWrite (memSet m a b) (a + 1) r

/-- The canonical form of memory. -/
abbrev Memory.wf (m : List Host.Cell) : Prop := tabWf m ∧ ∀ c ∈ m, c.2 ≠ 0

/-! ### Numbers in bytes -/

def leNat : List Byte → Nat
  | [] => 0
  | b :: r => b.toNat + 256 * leNat r

def leBytes : Nat → Nat → List Byte
  | 0, _ => []
  | n + 1, v => BitVec.ofNat 8 v :: leBytes n (v / 256)

/-- Bits `lo` to `lo + n - 1` of a number. -/
def bitsOf (v lo n : Nat) : Nat := v / 2 ^ lo % 2 ^ n

def memNat (m : List Host.Cell) (a n : Nat) : Nat := leNat (memRead m a n)

def memWord (m : List Host.Cell) (a : Nat) : Word := BitVec.ofNat 64 (memNat m a 8)

end Sys2Proof.Machine
end

