-- ==== Sys2Proof/Machine/Sets.lean ====
section
/-!
DEFINITION. Device lines and the caches that hold them: the fields of a device address (R158), home slices, the sets of the
caches with their victims (R170 to R174), poison (R165), and the bytes of memory written.
-/

namespace Sys2Proof.Machine

def lineOf (pa : Nat) : Nat := pa / 128

/-- Device-memory fields (R158, Table 7.3). -/
def stackOf (pa : Nat) : Nat := bitsOf pa 16 3
def rowOf (pa : Nat) : Nat := bitsOf pa 24 15
def bankOf (pa : Nat) : Nat := 64 * bitsOf pa 10 5 + (2 * bitsOf pa 19 5 + bitsOf pa 15 1)

def dirAt (s : State) (line : Nat) : DirEntry := tabD s.dir line DirEntry.reset
def setDir (s : State) (line : Nat) (v : DirEntry) : State := { s with dir := tabPut s.dir line v }

def poisoned (s : State) (pa : Nat) : Bool := s.poison.contains (lineOf pa)

/-- Home cluster of a device line (R171). -/
def homeCluster (pa : Nat) : Nat :=
  let h := (bitsOf pa 7 6) ^^^ (bitsOf pa 19 6) ^^^ (bitsOf pa 31 6)
  4 * bitsOf pa 17 2 + bitsOf h 4 2

def copiesOf (s : State) (line : Nat) : List Nat := tabD s.copies line []

def setCopies (s : State) (line : Nat) (l : List Nat) : State :=
  { s with copies := if l.isEmpty then tabDel s.copies line else tabPut s.copies line l }

def hostLineAt (s : State) (line : Nat) : Option HostLine := (s.hostdir.find? (fun e => e.1 = line)).map Prod.snd

/-- A cache of the package holds a copy of the line, or a partial whose eviction it has not begun. -/
def cacheHolds (s : State) (cache line : Nat) : Bool :=
  (copiesOf s line).contains cache || ((hostLineAt s line).map (fun h => h.holders.contains cache)).getD false ||
    (decide (cache < 1536) && (tabGet s.partials (2048 * line + cache)).isSome && !s.notices.contains (cache, line))

/-! ### Sets, victims and evictions (R170 to R174) -/

/-- The number of a line's home L2 slice among the caches (R171). -/
def sliceCache (line : Nat) : Nat :=
  let pa := 128 * line
  let h := (bitsOf pa 7 6) ^^^ (bitsOf pa 19 6) ^^^ (bitsOf pa 31 6)
  2048 + 16 * homeCluster pa + bitsOf h 0 4

def cacheSets (cache : Nat) : Nat := if cache < 1536 then 64 else if cache < 2048 then 128 else 1024
def cacheWays (cache : Nat) : Nat := if cache < 1536 then 8 else 16
/-- The ways that lines of priority 3 may fill. -/
def keptWays (cache : Nat) : Nat := if cache < 1536 then 6 else 12

def setKey (cache line : Nat) : Nat := 1024 * cache + Config.cacheSet cache line % cacheSets cache

/-- The lines a set holds, least recently used first; what an invalidation has taken from an L1 or a pool cache is gone. -/
def setLines (s : State) (cache line : Nat) : List CLine :=
  (tabD s.sets (setKey cache line) []).filter (fun e => decide (2048 ≤ cache) || cacheHolds s cache e.line)

/-- Half ways a line takes: none for a line of zeros and one for a compressed line, which only an L2 slice holds (R174). -/
def lineHalves (s : State) (cache : Nat) (e : CLine) : Nat :=
  if cache < 2048 then 2
  else if (memRead s.mem (128 * e.line) 128).all (fun b => b = 0) then 0
  else if e.comp then 1 else 2

/-- A line locked for an atomic or held by an engine is no victim (R173). -/
def lineLocked (s : State) (line : Nat) : Bool :=
  match (dirAt s line).st with
  | .owned .host => false
  | .owned _ => true
  | _ => false

/-- The first of the lowest priority. -/
def lowestLine : List CLine → Option CLine
  | [] => none
  | e :: r =>
    match lowestLine r with
    | none => some e
    | some f => if f.prio < e.prio then some f else some e

/-- The half ways that lines of a set fill. -/
def halvesOf (s : State) (cache : Nat) (l : List CLine) : Nat := (l.map (lineHalves s cache)).sum

/-- A line of priority 3 that takes `n` half ways would pass the ways that such lines may fill (R173). -/
def keepsFull (s : State) (cache n : Nat) (l : List CLine) : Bool :=
  decide (2 * keptWays cache < halvesOf s cache (l.filter (fun e => e.prio = 3)) + n)

/-- A line that takes `n` half ways fits into a set beside `l`. -/
def setFits (s : State) (cache prio n : Nat) (l : List CLine) : Bool :=
  !(decide (prio = 3) && keepsFull s cache n l) && decide (halvesOf s cache l + n ≤ 2 * cacheWays cache)

/-- THE VICTIM of a set in which a line of a priority that takes `n` half ways does not fit (R173): of the lines that fill
ways, those of the lowest priority, and of them the least recently used. -/
def victimOf (s : State) (cache prio n : Nat) (l : List CLine) : Option CLine :=
  let free := l.filter (fun e => !lineLocked s e.line && decide (0 < lineHalves s cache e))
  if decide (prio = 3) && keepsFull s cache n l then free.find? (fun e => e.prio = 3) else lowestLine free

/-- A cache gives a line up: a copy is gone at once, a partial leaves with its eviction; the notice is on its way. An L2
slice holds nothing that memory does not. -/
def dropLine (s : State) (cache line : Nat) : State :=
  if 2048 ≤ cache then s
  else
    let s1 := setCopies s line ((copiesOf s line).filter (· ≠ cache))
    { s1 with
      notices := s1.notices ++ [(cache, line)]
      hostdir := s1.hostdir.map (fun e =>
        if e.1 = line then (e.1, { e.2 with holders := e.2.holders.filter (· ≠ cache) }) else e) }

/-- Lines leave a set until a new one that takes `n` half ways fits; the set after it. -/
def makeRoom (cache prio n : Nat) : Nat → State → List CLine → State × List CLine
  | 0, s, l => (s, l)
  | k + 1, s, l =>
    if setFits s cache prio n l then (s, l)
    else
      match victimOf s cache prio n l with
      | none => (s, l)
      | some v => makeRoom cache prio n k (dropLine s cache v.line) (l.filter (· ≠ v))

/-- A line placed into a set that holds `l` beside it, as its most recently used. It is not held where locked lines leave no
room for it. -/
def placeLine (s : State) (cache : Nat) (e : CLine) (l : List CLine) : State :=
  let n := lineHalves s cache e
  let r := makeRoom cache e.prio n 33 s l
  let key := setKey cache e.line
  { r.1 with sets := tabPut r.1.sets key (if setFits r.1 cache e.prio n r.2 then r.2 ++ [e] else r.2) }

/-- A cache uses a line it holds: the line becomes its set's most recently used. -/
def touchLine (s : State) (cache line : Nat) : State :=
  let l := setLines s cache line
  match l.find? (fun e => e.line = line) with
  | none => s
  | some e => { s with sets := tabPut s.sets (setKey cache line) (l.filter (fun e => e.line ≠ line) ++ [e]) }

/-- A cache allocates a line at a priority, unless it stands there already; `cmp` is the page's compressible bit. -/
def allocLine (s : State) (cache line prio : Nat) (cmp : Bool) : State :=
  let l := setLines s cache line
  if l.any (fun e => e.line = line) then touchLine s cache line
  else placeLine { s with free := if cmp then s.free + 1 else s.free } cache
    ⟨line, prio, cmp && Config.compresses s.free line⟩ l

/-- The home slice holds the line's data. -/
def inSlice (s : State) (line : Nat) : Bool := (setLines s (sliceCache line) line).any (fun e => e.line = line)

/-- A line's home slice takes the line at a priority, or only marks its use. -/
def useSlice (s : State) (line : Nat) (alloc : Option Nat) (cmp : Bool) : State :=
  match alloc with
  | some p => allocLine s (sliceCache line) line p cmp
  | none => touchLine s (sliceCache line) line

/-! ### Bytes written to device memory -/

/-- A line held by its home slice was written, `old` being the state before: it may not compress any more, and where it takes
more room than before it has to fit again (R174). -/
def refitLine (old s : State) (line : Nat) : State :=
  let c := sliceCache line
  let l := setLines s c line
  match l.find? (fun e => e.line = line) with
  | none => s
  | some e =>
    let e1 : CLine := { e with comp := e.comp && Config.compresses s.free line }
    let s1 := if e.comp then { s with free := s.free + 1 } else s
    let rest := l.filter (fun e => e.line ≠ line)
    if lineHalves old c e < lineHalves s c e1 then placeLine s1 c e1 rest
    else { s1 with sets := tabPut s1.sets (setKey c line) (rest ++ [e1]) }

/-- The lines of a byte range. -/
def linesIn (pa n : Nat) : List Nat :=
  if n = 0 then [] else (List.range (lineOf (pa + n - 1) + 1 - lineOf pa)).map (lineOf pa + ·)

/-- Bytes of memory written, the slices that hold their lines following. -/
def writeMem (s : State) (pa : Nat) (b : List Byte) : State :=
  (linesIn pa b.length).foldl (refitLine s) { s with mem := memWrite s.mem pa b }

end Sys2Proof.Machine
end

