-- ==== Sys2Proof/Machine/Ops.lean ====
section
/-!
DEFINITION. The named operations over the state: hart slots, contexts and their registers, the register cache, loops and
the PC, saturation counts, the event log, and taking a fault (R352 to R355).
-/

namespace Sys2Proof.Machine

/-! ### Where things are -/

def slotAt (s : State) (n : Nat) : Slot := tabD s.slots n Slot.reset
def ctxAt (s : State) (k : Nat) : Ctx := tabD s.ctxs k Ctx.reset
def partAt (s : State) (p : Nat) : Part := tabD s.parts p Part.reset
def dieAt (s : State) (d : Nat) : Die := tabD s.dies d Die.reset
def stackAt (s : State) (k : Nat) : Stack := tabD s.stackMem k Stack.reset
def bluAt (s : State) (b : Nat) : Blu := tabD s.blus b Blu.reset
def linkAt (s : State) (l : Nat) : Link := tabD s.links l Link.reset

def setSlot (s : State) (n : Nat) (v : Slot) : State := { s with slots := tabPut s.slots n v }
def setCtx (s : State) (k : Nat) (v : Ctx) : State := { s with ctxs := tabPut s.ctxs k v }
def setPart (s : State) (p : Nat) (v : Part) : State := { s with parts := tabPut s.parts p v }
def setDie (s : State) (d : Nat) (v : Die) : State := { s with dies := tabPut s.dies d v }
def setStack (s : State) (k : Nat) (v : Stack) : State := { s with stackMem := tabPut s.stackMem k v }
def setBlu (s : State) (b : Nat) (v : Blu) : State := { s with blus := tabPut s.blus b v }
def setLink (s : State) (l : Nat) (v : Link) : State := { s with links := tabPut s.links l v }

def modSlot (s : State) (n : Nat) (f : Slot → Slot) : State := setSlot s n (f (slotAt s n))
def modCtx (s : State) (k : Nat) (f : Ctx → Ctx) : State := setCtx s k (f (ctxAt s k))
def modPart (s : State) (p : Nat) (f : Part → Part) : State := setPart s p (f (partAt s p))
def modDie (s : State) (d : Nat) (f : Die → Die) : State := setDie s d (f (dieAt s d))
def modBlu (s : State) (b : Nat) (f : Blu → Blu) : State := setBlu s b (f (bluAt s b))

/-- Numbering of units (R9). -/
def coreOfSlot (slot : Nat) : Nat := slot / 2
def clusterOfCore (core : Nat) : Nat := core / 96
def dieOfCluster (c : Nat) : Nat := c / 4
def poolOfCore (core : Nat) : Nat := 8 * (core / 96) + core % 96 / 12
def clusterOfSlot (slot : Nat) : Nat := clusterOfCore (coreOfSlot slot)
def dieOfSlot (slot : Nat) : Nat := dieOfCluster (clusterOfSlot slot)

/-- The context, by its number in the stop table (R358): 1,024 × cluster + number. -/
def curKey (s : State) : Nat := (slotAt s s.cur.slot).ctx.getD 0
def curCtx (s : State) : Ctx := ctxAt s (curKey s)

def seqOf (c : Ctx) : Side → Seq
  | .a => c.a
  | .x => c.x

def setSeq (c : Ctx) (sd : Side) (q : Seq) : Ctx :=
  match sd with
  | .a => { c with a := q }
  | .x => { c with x := q }

def curSeq (s : State) : Seq := seqOf (curCtx s) s.cur.side
def modCur (s : State) (f : Ctx → Ctx) : State := modCtx s (curKey s) f
def modSeq (s : State) (f : Seq → Seq) : State :=
  modCur s (fun c => setSeq c s.cur.side (f (seqOf c s.cur.side)))

def curCore (s : State) : Nat := coreOfSlot s.cur.slot
def curPart (s : State) : Nat := (curCtx s).part

/-! ### Outcomes of a meaning -/

/-- What a fault puts into the stop record beside its code (Table 17.2). -/
structure FaultReq where
  code : BitVec 8
  addr : Word
  val : Word
  info : BitVec 16
  lvl : BitVec 2
  probe : Option (List (BitVec 2 × Word) × Bool)
  deriving DecidableEq, Repr, Inhabited

/-- An instruction that does not complete. It faults, its walk having left what `g` leaves of the state before it; or it
has not issued, and `stall` is the state it waits in, or `wait` what its wait makes of the state before it. -/
inductive Stop where
  | fault (f : FaultReq)
  | walkFault (f : FaultReq) (g : State → State)
  | stall (s : State)
  | wait (g : State → State)

abbrev Res (α : Type) := Except Stop α

def faultWith {α : Type} (code : BitVec 8) (addr val : Word) (info : BitVec 16) : Res α :=
  .error (.fault ⟨code, addr, val, info, 0, none⟩)

/-- ILLEGAL_OPERAND and TAG_MISMATCH carry the instruction word and the position (R352). -/
def illegalOperand {α : Type} (s : State) (pos : BitVec 16) : Res α := faultWith 0x02 0 s.cur.word pos
def tagMismatch {α : Type} (s : State) (pos : BitVec 16) : Res α := faultWith 0x03 0 s.cur.word pos
def misaligned {α : Type} (va : Word) (i : Nat) : Res α := faultWith 0x04 va 0 (BitVec.ofNat 16 i)
def boundsFault {α : Type} (v limit : Nat) : Res α := faultWith 0x07 (BitVec.ofNat 64 v) (BitVec.ofNat 64 limit) 0
def handleStale {α : Type} (h : Word) : Res α := faultWith 0x08 h 0 0
def noVectorContext {α : Type} : Res α := faultWith 0x0E 0 0 0

def stallIn {α : Type} (s : State) (w : StallWhy) : Res α :=
  .error (.stall (modSeq s (fun q => { q with why := w })))

/-- `c` holds, or the alternative stops the instruction. -/
def need (c : Bool) (e : Res Unit) : Res Unit := if c then .ok () else e

/-! ### Taking a fault (R352 to R355, R361) -/

/-- The slot a context is in, or last ran in. -/
def slotOfCtx (c : Ctx) : Nat := match c.place with | .inSlot n => n | _ => c.lastSlot

/-- Contexts in the order of their hart slots: where one step raises the faults of several, the lowest slot's is the first of
the partition (R355). -/
def insertBySlot (e : Nat × Ctx) : List (Nat × Ctx) → List (Nat × Ctx)
  | [] => [e]
  | f :: r => if slotOfCtx e.2 ≤ slotOfCtx f.2 then e :: f :: r else f :: insertBySlot e r

def byHart (l : List (Nat × Ctx)) : List (Nat × Ctx) := l.foldr insertBySlot []

/-- The fault's record for a context: the first is kept, a later one sets MF; the first of the partition raises the halt
line and carries FL. -/
def recordFault (s : State) (key : Nat) (f : FaultInfo) : State :=
  let c := ctxAt s key
  let p := partAt s c.part
  let raises := !p.line
  let s1 := setCtx s key (match c.fault with
    | none => { c with fault := some { f with fl := raises } }
    | some _ => { c with mf := true })
  modPart s1 c.part (fun q => { q with line := true, fl := if raises then some key else q.fl })

/-- The detached record of a cluster (R361). -/
def recordDetached (s : State) (cluster part : Nat) (f : FaultInfo) : State :=
  let p := partAt s part
  let raises := !p.line
  let s1 := { s with detached := tabPut s.detached cluster (match tabGet s.detached cluster with
    | none => ({ f with fl := raises }, false)
    | some (g, _) => (g, true)) }
  modPart s1 part (fun q => { q with line := true, fl := if raises then some (16384 + cluster) else q.fl })

def faultInfo (s : State) (f : FaultReq) (sd : Side) (slot : Nat) (pc : Word) : FaultInfo :=
  { code := f.code, sq := sd, slot := BitVec.ofNat 12 slot, e := false, fl := false, lvl := f.lvl,
    time := BitVec.ofNat 64 s.now, pc := pc, addr := f.addr, val := f.val, info := f.info, probe := f.probe,
    cmd := none }

/-- TAKING AN EXCEPTION: the fault of the executing instruction. The stop record takes the code, the PC, which stays at
the faulting word, and the fields of Table 17.2; the sequencer stops; the partition's halt line rises. -/
def raiseFault (s : State) (f : FaultReq) : State :=
  modSeq (recordFault s (curKey s) (faultInfo s f s.cur.side s.cur.slot (curSeq s).pc))
    (fun q => { q with status := .faulted, why := .none })

/-- The fault of a context's sequencer that stands at its word, in a slot or not (R339, R363). One in the pin wait of
`hinv` stays in it (R320). -/
def raiseCtxFault (s : State) (key : Nat) (sd : Side) (f : FaultReq) : State :=
  let c := ctxAt s key
  let slot := match c.place with | .inSlot n => n | .mirror n => n | .out => c.lastSlot
  modCtx (recordFault s key (faultInfo s f sd slot (seqOf c sd).pc)) key (fun c =>
    let q := seqOf c sd
    setSeq c sd { q with status := (match q.status with | .pinWait h => .pinWait h | _ => .faulted), why := .none })

/-- The fault of an engine command (R197, R360, R361): in its context's record while that context lives, else in the
detached record of its cluster. -/
def raiseCmdFault (s : State) (id : Nat) (i : Issuer) (f : FaultReq) : State :=
  let g := { faultInfo s f i.side i.slot i.pc with e := true, cmd := some id }
  match tabGet s.ctxs i.ctx with
  | some c =>
    if c.task = i.task && c.iter = i.iter && c.part = i.part then recordFault s i.ctx g
    else recordDetached s (clusterOfCore i.core) i.part g
  | none => recordDetached s (clusterOfCore i.core) i.part g

/-! ### Device-memory fields, banks and poison (R158, R164, R165) -/

/-- A bank by stack and stack-local number. -/
def bankId (stack bank : Nat) : Nat := 2048 * stack + bank
def dieOfBank (bank : Nat) : Nat := bank / 2048 / 2
def bankOfLine (line : Nat) : Nat := bankId (stackOf (128 * line)) (bankOf (128 * line))

/-- The bank runs a wave. -/
def inWave (s : State) (bank : Nat) : Bool :=
  match (dieAt s (dieOfBank bank)).wave with
  | some w => w.banks.contains bank
  | none => false

/-! ### Frames and requests (R375) -/

/-- The priority class of a message (Table 18.5): responses 4, management 6, requests 3. -/
def msgClass (link code : Nat) : Nat :=
  if link = 0 then
    if code = 0x06 || code = 0x07 || code = 0x08 || code = 0x0B || code = 0x0C then 4
    else if 0x10 ≤ code then 6 else 3
  else if code = 0x06 || code = 0x07 then 4 else 3

/-- A frame of a message with its sequence number: the Ethertype of its transport, and as acknowledgement the number that
its class expects next from the partner (Table 18.6). -/
def frameOf (s : State) (n : Nat) (m : Msg) : Frame :=
  { eth := if m.link = 0 then s.ethAht else s.ethBft, ver := 1, seq := BitVec.ofNat 32 n
    ack := BitVec.ofNat 32 (tabD (linkAt s m.link).rxNext (msgClass m.link m.code) 0)
    snode := if m.link = 0 then 0 else s.node.toNat, msg := m }

/-- A frame is numbered in its class, and sent, or held while its port is down or its class is paused; it stays until
acknowledged. -/
def sendMsg (s : State) (m : Msg) : State :=
  let l := linkAt s m.link
  let cls := msgClass m.link m.code
  let n := tabD l.txNext cls 0
  let hold : Bool := !l.up || l.paused.contains cls
  let l1 := { l with txNext := tabPut l.txNext cls (n + 1), unacked := if hold then l.unacked else l.unacked ++ [(n, m)],
                     held := if hold then l.held ++ [(n, m)] else l.held }
  let s1 := setLink s m.link l1
  if hold then s1 else { s1 with out := s1.out ++ [frameOf s n m] }

/-- The frames a port holds that may go now. -/
def flushHeld (s : State) (link : Nat) : State :=
  let l := linkAt s link
  if l.up then
    let go := l.held.filter (fun e => !l.paused.contains (msgClass link e.2.code))
    let l1 := { l with unacked := l.unacked ++ go
                       held := l.held.filter (fun e => l.paused.contains (msgClass link e.2.code)) }
    let s1 := setLink s link l1
    { s1 with out := s1.out ++ go.map (fun e => frameOf s e.1 e.2) }
  else s

/-- A message to the host. -/
def hostMsg (code part tag addr status : Nat) (ps : Bool) (payload : List Byte) : Msg :=
  { link := 0, dnode := 0, code := code, part := part, tag := tag, addr := addr, status := status, ps := ps
    payload := payload }

/-- A message to the host, or to the node of its fabric-window address. -/
def linesOfMsg (code part tag addr : Nat) (link : Nat) (payload : List Byte) : Msg :=
  { link := link, dnode := if link = 0 then 0 else bitsOf addr 39 11, code := code, part := part, tag := tag, addr := addr
    status := 0, ps := false, payload := payload }

/-- A request whose answer is awaited; its tag is the number of the operation. -/
def sendAsk (s : State) (who : Asker) (code addr extra link part : Nat) (payload : List Byte) : State :=
  let tag := s.ids
  let s1 := { s with ids := tag + 1, asks := tabPut s.asks tag ⟨who, code, addr, extra, link, s.now⟩ }
  sendMsg s1 (linesOfMsg code part tag addr link payload)

def hasAsk (s : State) (p : Ask → Bool) : Bool := s.asks.any (fun e => p e.2)

/-! ### Links between dies and to the stacks, and a line's home (R8, R238, R378) -/

/-- The shared edges on the way from one die to another and back: 0 is 0–1, 1 is 2–3, 2 is 0–2, 3 is 1–3 (R8). -/
def edgesBetween (a b : Nat) : List Nat :=
  match min a b, max a b with
  | 0, 1 => [0] | 2, 3 => [1] | 0, 2 => [2] | 1, 3 => [3] | 0, 3 => [0, 3, 1, 2] | 1, 2 => [0, 2, 1, 3] | _, _ => []

/-- A failed edge lies between two dies: traffic is never routed around it (R8, R378). -/
def diesCut (s : State) (a b : Nat) : Bool := s.edgeDown.any (fun l => (edgesBetween a b).contains l)

/-- The edges and the stack interface between a core and a device line's stack. -/
def deviceLinks (core pa : Nat) : List Nat :=
  (16 + stackOf pa) :: edgesBetween (dieOfCluster (clusterOfCore core)) (stackOf pa / 2)

/-- A failed link lies between a core and a device line: traffic is never routed around it (R378). -/
def lineCut (s : State) (core line : Nat) : Bool := s.edgeDown.any (fun l => (deviceLinks core (128 * line)).contains l)

def isFaceted (e : DirEntry) : Bool :=
  match e.st with
  | .faceted _ => true
  | .gathering => true
  | _ => false

def hostOwns (s : State) (line : Nat) : Bool := decide ((dirAt s line).st = .owned .host)

/-- A write at the line's home waits until the host has dropped its copy, and what reaches the line meanwhile waits too: a
write-through (R235, R238, R249), or a write of the device itself to a context block. -/
def lineBusy (s : State) (line : Nat) : Bool :=
  s.wts.any (fun e => lineOf e.2.pa = line && e.2.phase = .hostCopy) ||
    (s.blockq.any (fun e => lineOf e.pa = line) && decide ((dirAt s line).st ≠ .owned .host))

/-- An access at a line's home: its channel may open the row for it (R345; log entry 27), and does unless the slice holds
the line. -/
def noteChannel (s : State) (line : Nat) : State := { s with chan := s.chan ++ [(line, inSlice s line)] }

/-! ### Waiters of other packages (R339, R376) -/

/-- The fabric port that leads to a node (R376), as a link number. -/
def routeOf (s : State) (node : Nat) : Nat := 1 + tabD s.routes node 0

/-- A core of the die that a port, or with 0 the host port, stands on: where a request from outside comes from. -/
def portCore (link : Nat) : Nat := 384 * ((link - 1) / 2)

/-- A frame of the Bolvia fabric transport. -/
def sendBft (s : State) (node code part tag addr status : Nat) (ps : Bool) (payload : List Byte) : State :=
  sendMsg s { link := routeOf s node, dnode := node, code := code, part := part, tag := tag, addr := addr, status := status,
              ps := ps, payload := payload }

/-- One waiter evaluated at its word's home: woken, or kept. While the home has not the word's value there is none to
evaluate. -/
def wakeWaiter (s : State) (w : Waiter) : State :=
  let line := lineOf w.pa
  if hostOwns s line || isFaceted (dirAt s line) || lineBusy s line || poisoned s w.pa ||
      lineCut s (portCore (routeOf s w.snode)) line || (memWord s.mem w.pa).toNat < w.target.toNat then
    { s with waiters := s.waiters ++ [w] }
  else sendBft s w.snode 0x07 w.part w.tag w.pa 0 false (leBytes 8 (memWord s.mem w.pa).toNat)

def wakeWaiters (s : State) : State := s.waiters.foldl wakeWaiter { s with waiters := [] }

/-- The waiters of other packages on the words among `n` bytes of device memory are evaluated after an operation on them
(R339). -/
def wakeOthers (s : State) (pa n : Nat) : State :=
  let mine (w : Waiter) : Bool := decide (w.pa < pa + n) && decide (pa < w.pa + 8)
  if s.waiters.any mine then
    s.waiters.foldl (fun t w => if mine w then wakeWaiter t w else { t with waiters := t.waiters ++ [w] })
      { s with waiters := [] }
  else s

/-! ### Waiters on counters of this package (R339, R357) -/

/-- The bytes a write-through covers. -/
def Wt.size (w : Wt) : Nat := match w.kind with | .store => w.bytes.length | .half .. => 1 | _ => 8

/-- A store of the program, as against a counter add. -/
def Wt.isStore (w : Wt) : Bool := match w.kind with | .store => true | .half .. => true | _ => false

/-- The write covers a byte of a range. -/
def Wt.covers (w : Wt) (pa n : Nat) : Bool := decide (w.pa < pa + n) && decide (pa < w.pa + w.size)

/-- A store or add of the sequencer itself that covers a byte of the word is still on its way there (R219). -/
def seqWtOver (s : State) (key : Nat) (sd : Side) (pa n : Nat) : Bool :=
  let c := ctxAt s key
  s.wts.any (fun e => e.2.ctx = key && e.2.task = c.task && e.2.iter = c.iter && e.2.side = sd && e.2.cmd.isNone &&
    e.2.covers pa n)

/-- The ceiling of `cwaitx` is exceeded. -/
def overCeiling (v : Word) : Option Word → Bool
  | some c => decide (c.toNat < v.toNat)
  | none => false

def overrun (va v : Word) : FaultReq := ⟨0x0B, va, v, 0, 0, none⟩

/-- A WAITER EVALUATED against a value of its counter: it is satisfied once the value meets its target. A ceiling exceeded
then faults at once, or during a halt at the release. -/
def evalWaiter (s : State) (key : Nat) (sd : Side) (v : Word) : State :=
  let c := ctxAt s key
  match (seqOf c sd).status with
  | .waiting (.counter _ va target ceil) =>
    if v.toNat < target.toNat then s
    else
      let ovr := overCeiling v ceil
      if ovr && !(partAt s c.part).line then raiseCtxFault s key sd (overrun va v)
      else
        modCtx s key (fun c => setSeq c sd { seqOf c sd with
          status := .waiting (.satisfied (if ovr then some (va, v) else none)) })
  | _ => s

/-- The device-memory address of the counter that a sequencer waits on; `none` for one served elsewhere. -/
def waitsOn (s : State) (q : Seq) : Option Nat :=
  match q.status with
  | .waiting (.counter pa ..) =>
    if pa < 0x8000000000 then some pa
    else if 0x4000000000000 ≤ pa && pa < 0x8000000000000 && bitsOf pa 39 11 = s.node.toNat then some (pa % 0x8000000000)
    else none
  | _ => none

def wakeSide (pa n : Nat) (key : Nat) (s : State) (sd : Side) : State :=
  let c := ctxAt s key
  match waitsOn s (seqOf c sd) with
  | some w =>
    if decide (w < pa + n) && decide (pa < w + 8) && !poisoned s w && !seqWtOver s key sd w 8 then
      evalWaiter s key sd (memWord s.mem w)
    else s
  | none => s

/-- The waiters on the counters among `n` bytes of device memory, this package's in the order of their hart slots and other
packages', are evaluated after an operation on them (R339, R355). -/
def wakeLocal (s : State) (pa n : Nat) : State :=
  if 0x8000000000 ≤ pa then s
  else wakeOthers ((byHart s.ctxs).foldl (fun s e => wakeSide pa n e.1 (wakeSide pa n e.1 s .a) .x) s) pa n

/-! ### Time, saturation and the event log -/

/-- The record of an event: 64 bytes, little-endian, of a number built from its fields. -/
abbrev EventRec := Nat

/-- The record written to entry n mod C of a partition's log, and its counter moved on, wrapping, with the waiters on it
evaluated (R277, R339). -/
def writeEvent (s : State) (p : Nat) (r : EventRec) : State :=
  let q := partAt s p
  let base := q.evlog.toNat
  let n := memNat s.mem base 8
  let entry := base + 64 + 64 * (n % q.evcap)
  let s1 := noteChannel (noteChannel s (lineOf entry)) (lineOf base)
  wakeLocal (writeMem (wakeLocal (writeMem s1 entry (leBytes 64 r)) entry 64) base (leBytes 8 (n + 1))) base 8

/-- The lines the next event of a partition writes. -/
def eventLines (s : State) (p : Nat) : List Nat :=
  let q := partAt s p
  let base := q.evlog.toNat
  [base / 128, (base + 64 + 64 * (memNat s.mem base 8 % q.evcap)) / 128]

/-- The home can write the line at once: no facet, the host neither owns nor shares it, and its bank is in no wave. -/
def plainLine (s : State) (line : Nat) : Bool :=
  !inWave s (bankOfLine line) &&
    (match (dirAt s line).st with
      | .uncached => true
      | .shared => !(dirAt s line).sharers.contains 1664
      | _ => false)

/-- Where a partition's own writes to device memory come from: a core of its lowest cluster. -/
def partCore (s : State) (p : Nat) : Nat :=
  96 * (((List.range 16).find? (fun c => (partAt s p).clus.getLsbD c)).getD 0)

/-- The lines of a partition's next event can be written at once: no failed link lies on the way to them (R8), and their homes
make the write wait for nothing. -/
def eventReady (s : State) (p : Nat) : Bool :=
  (eventLines s p).all (fun l => plainLine s l && !lineCut s (partCore s p) l)

/-- An event of a partition (R277): recorded if its bit of sw.evmask is set; where its lines are not free, as soon as they
are. -/
def logEvent (s : State) (p : Nat) (bit : Nat) (r : EventRec) : State :=
  let q := partAt s p
  if q.configured && q.evmask.getLsbD bit then
    if s.evq.all (fun e => e.1 ≠ p) && eventReady s p then writeEvent s p r
    else { s with evq := s.evq ++ [(p, r)] }
  else s

/-- The common first 128 bits of an event record: code, partition, slot, time. -/
def eventHead (s : State) (code p slot : Nat) : Nat := code + p * 2 ^ 8 + slot * 2 ^ 16 + s.now % 2 ^ 64 * 2 ^ 64

/-- Start of the saturation window that holds the present moment (R350). -/
def windowStart (s : State) (l : Slot) : Nat :=
  if l.satwin = 0 then l.winStart else s.now / l.satwin.toNat * l.satwin.toNat

def rollWindow (s : State) (l : Slot) : Slot :=
  let w := windowStart s l
  if w = l.winStart then l else { l with winStart := w, winCount := 0, winFired := false }

/-- One saturation of a class lands on a slot's counters (R36, R37, R350). A window has written its event only where the
partition's mask lets it be written; where the mask bit is set only after the count has passed sw.satthr, the event comes with
the next increment, which is the model's choice (log entry 109). -/
def addSat1 (s : State) (slot : Nat) (p : Nat) (cls : Nat) : State :=
  let l := rollWindow s (slotAt s slot)
  let sat7 := l.sat[7] + 1
  let sat := (l.sat.setIfInBounds cls (l.sat.getD cls 0 + 1)).setIfInBounds 7 sat7
  let cnt := l.winCount + 1
  let heard : Bool := (partAt s p).configured && (partAt s p).evmask.getLsbD 1
  let fire : Bool := heard && l.satthr ≠ 0 && decide (l.satthr.toNat ≤ cnt) && !l.winFired
  let s1 := setSlot s slot { l with sat := sat, winCount := cnt, winFired := l.winFired || fire }
  if fire then
    logEvent s1 p 1 (eventHead s 0x41 p slot + sat7.toNat * 2 ^ 128 + l.winStart % 2 ^ 64 * 2 ^ 192 + cls * 2 ^ 256)
  else s1

def addSat (s : State) (slot p cls : Nat) : Nat → State
  | 0 => s
  | n + 1 => addSat (addSat1 s slot p cls) slot p cls n

/-- Saturations of the executing instruction. -/
def curSat (s : State) (cls n : Nat) : State := addSat s s.cur.slot (curPart s) cls n

def addPm (s : State) (slot k n : Nat) : State :=
  modSlot s slot (fun l => { l with pm := l.pm.setIfInBounds k (l.pm.getD k 0 + BitVec.ofNat 64 n) })

def curPm (s : State) (k n : Nat) : State := addPm s s.cur.slot k n

/-! ### Scalar registers (R52, R69, R73, R84, R85) -/

/-- A read of x0 to x31: x0 and dead registers read 0. -/
def xRead (q : Seq) (i : BitVec 5) : Word :=
  if i = 0 then 0 else if q.live.getLsbD i.toNat then q.x[i.toNat]'i.isLt else 0

/-- An entry leaves the register cache: a live, modified one goes to the context block (R85), with the value of a load that
has performed (R220). -/
def rcEvict (q : Seq) (j : BitVec 5) : Seq :=
  { q with
    rc := q.rc.filter (· ≠ j)
    late := q.late.filter (fun e => e.dst ≠ .x false j)
    dirty := q.dirty &&& ~~~(1#32 <<< j.toNat)
    evicted := if q.live.getLsbD j.toNat && q.dirty.getLsbD j.toNat && !q.evicted.contains j then q.evicted ++ [j]
               else q.evicted }

/-- Makes a register the most recently used entry of the register cache; a seventeenth entry evicts a dead register, or
else the least recently used (R85). Which of several dead registers goes is the model's choice: the least recently used (log
entry 100). -/
def rcTouch (q : Seq) (i : BitVec 5) : Seq :=
  if i = 0 then q
  else
    let l := i :: q.rc.filter (· ≠ i)
    if l.length ≤ 16 then { q with rc := l }
    else
      let victim := match (l.reverse.find? (fun j => !q.live.getLsbD j.toNat && j ≠ i)) with
        | some j => j
        | none => l.getLastD 0
      rcEvict { q with rc := l } victim

/-- A write of x0 is discarded; any other register becomes live, resident and modified. -/
def xWrite (q : Seq) (i : BitVec 5) (v : Word) : Seq :=
  if i = 0 then q
  else rcTouch { q with x := q.x.set i.toNat v i.isLt, live := q.live ||| (1#32 <<< i.toNat)
                        dirty := q.dirty ||| (1#32 <<< i.toNat) } i

/-- A last-use mark makes a register dead; x0 has none. -/
def xKill (q : Seq) (i : BitVec 5) : Seq := { q with live := q.live &&& ~~~(1#32 <<< i.toNat) }

/-- The last-result file shifts (R73), and with it the results of loads that may still perform (R220). -/
def lShift (q : Seq) (v : Word) : Seq :=
  { q with l := #v[v, q.l[0], q.l[1], q.l[2]], late := q.late.map (fun e => { e with back := e.back + 1 }) }

/-- `k` at a depth: the index of the entry that many below the top, 0 where there is none (R106). -/
def kRead (q : Seq) (i : BitVec 3) : Word := (q.loops[i.toNat]?.map LoopEntry.index).getD 0

/-! ### The PC and the loop-index stack (R103 to R105) -/

/-- `EndCheck` over the loop stack: the next PC, the stack, and whether a pass of a loop with P begins. -/
def endCheck (w : Word) : List LoopEntry → Word × List LoopEntry × Bool
  | [] => (w + 8, [], false)
  | e :: r =>
    if w = e.last then
      if e.remain ≠ 0 then
        (e.start, { e with index := e.index + 1, remain := e.remain - 1 } :: r, e.p)
      else endCheck w r
    else (w + 8, e :: r, false)

/-- `ExitCheck`: entries whose body does not hold the target are popped. -/
def exitCheck (target : Word) (l : List LoopEntry) : List LoopEntry :=
  l.dropWhile (fun e => !(decide (e.start ≤ target) && decide (target ≤ e.last)))

/-- Both sequencers stand at the same loop boundary (R107); a hart whose A is idle has only X's. -/
def sameBoundary (c : Ctx) : Bool :=
  c.x.atBound &&
    (c.a.status = .idle ||
      (c.a.atBound && c.a.loops.map LoopEntry.index = c.x.loops.map LoopEntry.index))

def seqWaits (q : Seq) : Bool :=
  match q.status with
  | .waiting (.satisfied _) => false
  | .waiting _ => true
  | _ => false

/-- A wait boundary (R274), the queues apart. -/
def waitBoundary (c : Ctx) : Bool :=
  (seqWaits c.a || c.a.status = .done || c.a.status = .idle) && (seqWaits c.x || c.x.status = .done) &&
    (seqWaits c.a || seqWaits c.x)

/-- The watchdog count starts again at each boundary, with the limit of that moment (R363). -/
def wdogReset (s : State) (slot : Nat) : State :=
  let p := (ctxAt s ((slotAt s slot).ctx.getD 0)).part
  modSlot s slot (fun l => { l with wdogCount := 0, wdogLimit := (partAt s p).wdog.toNat })

/-- The queues are empty but for what a load stream has read ahead, and no stream store is outstanding (R274). -/
def queuesClear (s : State) (key : Nat) (c : Ctx) : Bool :=
  [0, 1, 2, 3].all (fun (i : Nat) =>
    let b := c.binds.getD i Binding.unbound
    (c.q.getD i []).all (fun e => e.stream && !b.dir)) &&
  c.w.toList.all List.isEmpty && c.bq.isEmpty &&
  !s.wts.any (fun e => e.2.ctx = key && e.2.task = c.task && e.2.iter = c.iter && e.2.strm.isSome)

/-- At an iteration boundary, whatever the preemptible flag, the watchdog of the context's slot starts again (R274,
R363). -/
def boundaryAt (s : State) (slot key : Nat) : State :=
  if (sameBoundary (ctxAt s key) || waitBoundary (ctxAt s key)) && queuesClear s key (ctxAt s key) then wdogReset s slot
  else s

def boundaryReset (s : State) : State := boundaryAt s s.cur.slot (curKey s)

/-- The same for a context whose hart may have come to stand at a boundary without a step of its own. -/
def boundaryOf (s : State) (key : Nat) : State :=
  match (ctxAt s key).place with
  | .inSlot n => boundaryAt s n key
  | _ => s

/-- An instruction retires: counted, and its sequencer goes on. -/
def retired (s : State) (f : Seq → Seq) : State :=
  let s1 := modSeq s (fun q => { f q with status := .running, why := .none })
  boundaryReset (curPm s1 (match s.cur.side with | .a => 1 | .x => 2) 1)

/-- The word at the PC retires without a transfer: `EndCheck` (R104). `w` is the address EndCheck is applied to. -/
def retireAt (s : State) (w : Word) : State :=
  retired s (fun q =>
    let r := endCheck w q.loops
    { q with pc := r.1, loops := r.2.1, atBound := r.2.2 })

def retire (s : State) : State := retireAt s (curSeq s).pc

/-- A taken transfer that leaves loops by R105. -/
def retireTo (s : State) (target : Word) : State :=
  retired s (fun q => { q with pc := target, loops := exitCheck target q.loops, atBound := false })

/-- A call: nothing is popped (R105). -/
def retireCall (s : State) (target : Word) : State :=
  retired s (fun q => { q with pc := target, atBound := false })

/-- The sequencer stalls at a wait boundary (R274); the instruction issues again later. -/
def waitIn {α : Type} (s : State) (w : WaitKind) : Res α :=
  .error (.stall (boundaryReset (modSeq s (fun q => { q with status := .waiting w, why := .none }))))

/-- The sequencer at work stalls on neither a queue nor a tile nor the matrix engine (Table 16.5). -/
def plainWait (s : State) : State :=
  if (curSeq s).why = .none then s else modSeq s (fun q => { q with why := .none })

/-- An access of the sequencer at work is under way: its request is sent, or it waits in the queue of a bank (R164, R354). The
waiter of a counter of another package is no such access. -/
def accessSent (s : State) : Bool :=
  let me : Asker := .seq (curKey s) s.cur.side
  s.asks.any (fun e => e.2.who = me && !(e.2.link ≠ 0 && e.2.code = 0x05)) ||
    s.answers.any (fun e => e.2.ask.who = me && e.2.ask.code ≠ 0x05) || s.bankWaits.any (fun w => w.who = me)

/-- An instruction whose access is under way has issued: its sequencer no longer stands at a loop boundary (R107, R354). -/
def leaveBound (s : State) : State :=
  if (curSeq s).atBound && accessSent s then modSeq s (fun q => { q with atBound := false }) else s

/-- A meaning's outcome: the state it reaches, the fault it takes, or the state it waits in. -/
def finish (s : State) (r : Res State) : Host.Outcome State Fault Refusal :=
  .next (match r with
    | .ok t => t
    | .error (.fault f) => raiseFault s f
    | .error (.walkFault f g) => raiseFault (g s) f
    | .error (.stall t) => t
    | .error (.wait g) => leaveBound (g (plainWait s)))

/-- An instruction stalled at the halt issues again at the release, unless it is a waiter whose target was met, or `hinv` in its
wait (R320, R339, R362). -/
def issuesAgain : SeqStatus → SeqStatus
  | .waiting (.satisfied o) => .waiting (.satisfied o)
  | .waiting _ => .running
  | .until _ => .running
  | t => t

/-- RETURNING FROM AN EXCEPTION, for one sequencer of a released context (R362): one that stood at a fault runs again, and in a
hart slot (`again`) a stalled instruction issues again; a resume address other than its PC also ends a wait (R320). -/
def resumeSeq (q : Seq) (rpc : Option Word) (again : Bool) : Seq :=
  let pc := rpc.getD q.pc
  { q with
    pc := pc
    atBound := q.atBound && decide (pc = q.pc)
    ahead := []
    late := []
    status := match q.status with
      | .faulted => .running
      | .idle => .idle
      | t => if pc ≠ q.pc then .running else if again then issuesAgain t else t }

end Sys2Proof.Machine
end

