-- ==== Sys2Proof/Machine/Coh.lean ====
section
/-!
DEFINITION. Frames and requests to the host and other packages; the directory of the home L2 slices, facets and their
focus (R232 to R250); reads and writes at the home; write-throughs on their way.
-/

namespace Sys2Proof.Machine

/-! ### Lines, caches and sharers (R234, R236) -/

/-- Cache numbers: L1 of a core, pool cache 1,536 + p, the host 1,664. -/
def poolCache (core : Nat) : Nat := 1536 + poolOfCore core
def hostCache : Nat := 1664

def clusterOfCache (c : Nat) : Nat := if c < 1536 then c / 96 else (c - 1536) / 8

/-- THE TRACKING OF SHARERS (R236): the exact list up to eight, then the map of clusters; the host stays one agent of its
own. -/
def trackSharer (sharers : List Nat) (map : Option (BitVec 16)) (c : Nat) : List Nat × Option (BitVec 16) :=
  let bit : Nat → BitVec 16 := fun c => 1#16 <<< clusterOfCache c
  match map with
  | some m => if c = hostCache then ([hostCache], some m) else (sharers, some (m ||| bit c))
  | none =>
    if sharers.contains c then (sharers, none)
    else if sharers.length < 8 then (sharers ++ [c], none)
    else
      let all := c :: sharers
      (all.filter (· = hostCache), some ((all.filter (· ≠ hostCache)).foldl (fun m c => m ||| bit c) 0))

/-- A new sharer of a device line. -/
def addSharer (e : DirEntry) (c : Nat) : DirEntry :=
  let r := trackSharer e.sharers e.map c
  { e with st := .shared, sharers := r.1, map := r.2 }

/-- Line data on its way to the package is read but not kept: it may be older than what happens to the line meanwhile. -/
def keepNoData (s : State) (line : Nat) : State :=
  { s with asks := s.asks.map (fun e => (e.1,
      if e.2.link = 0 && e.2.code = 0x01 && e.2.addr = 128 * line then { e.2 with code := 0x03 } else e.2)) }

/-- Every device copy of a host line goes (R248). -/
def dropHostLine (s : State) (line : Nat) : State :=
  keepNoData { s with hostdir := s.hostdir.filter (fun e => e.1 ≠ line) } line

/-- The package owns a host line, or has asked to (R182, R249). -/
def ownsHostLine (s : State) (line : Nat) : Bool :=
  hasAsk s (fun a => a.link = 0 && a.code = 0x02 && a.addr = 128 * line) ||
    s.answers.any (fun e => e.2.ask.link = 0 && e.2.ask.code = 0x02 && e.2.ask.addr = 128 * line && !e.2.denied)

/-- WBOWN: the package returns a host line that it owned, and with that has answered a Recall of it (R249). -/
def returnLine (s : State) (part line : Nat) (bytes : List Byte) (ps : Bool) : State :=
  sendMsg { s with recalls := s.recalls.filter (fun l => l ≠ line) }
    { linesOfMsg 0x08 part 0 (128 * line) 0 bytes with ps := ps }

/-- An asker gives up its requests: nobody waits for their answers any more, and what has come is dropped. A host line asked
for or held for an `amo` goes back to the host, at once or when its data comes. -/
def forget (s : State) (p : Asker → Bool) : State :=
  let back (a : Ask) : Bool := a.link = 0 && a.code = 0x02
  let mine := s.answers.filter (fun e => p e.2.ask.who && back e.2.ask && !e.2.denied)
  let s1 := { s with
    asks := s.asks.filterMap (fun e =>
      if !p e.2.who then some e else if back e.2 then some (e.1, { e.2 with who := .home }) else none)
    answers := s.answers.filter (fun e => !p e.2.ask.who)
    bankWaits := s.bankWaits.filter (fun w => !p w.who)
    walks := s.walks.filter (fun w => !p w.1) }
  mine.foldl (fun t e => returnLine t 0 (lineOf e.2.ask.addr) e.2.bytes e.2.ps) s1

/-- A cache records its copy of a device line. -/
def recordCopy (s : State) (line c : Nat) : State :=
  let s1 := setDir s line (addSharer (dirAt s line) c)
  if (copiesOf s line).contains c then s1 else setCopies s1 line (copiesOf s line ++ [c])

/-- Every copy but those of `keep` is dropped; the host's is not touched here (R249). The home tracks exactly again once the
line is Uncached (R236). Where no sharer is left the line is Uncached, as Table 11.3 has it, although Table 11.4 lets a
write-through to a Shared line leave it Shared (log entry 104). -/
def dropCopies (s : State) (line : Nat) (keep : List Nat) : State :=
  let e := dirAt s line
  let left := (copiesOf s line).filter (fun c => keep.contains c)
  let sh := e.sharers.filter (fun c => keep.contains c || c = hostCache)
  let gone := left.isEmpty && sh.isEmpty
  let s1 := setCopies s line left
  setDir s1 line { e with map := if gone then none else e.map, sharers := sh, st := if gone then .uncached else .shared }

/-- A read of a line, noted among the write-throughs that R245 counts: an entry with no byte written. -/
def noteRead (s : State) (line agent : Nat) : State :=
  let e := dirAt s line
  if e.writers.isEmpty || e.writers.getLast? = some (agent, 0) then s
  else setDir s line { e with writers := e.writers ++ [(agent, 0)] }

def hostShares (s : State) (line : Nat) : Bool := (dirAt s line).sharers.contains hostCache

/-! ### Facet operators (Table 11.5) -/

/-- Element bytes of an operator tag. -/
def tagWidth (tag : BitVec 4) : Nat :=
  if tag = 2 then 8 else if tag = 4 then 2 else if tag = 0 then 1 else 4

def tagExact (tag : BitVec 4) : Bool := !(tag = 3 || tag = 4 || tag = 9 || tag = 10)

def floatOp (t : ETy) (f : FV → FV → FV) (a b : Word) : Word := (convert (f (valueOf t a) (valueOf t b)) t).1

/-- ⊕ of an operator tag, on elements of its width. -/
def tagOp (tag : BitVec 4) (a b : Word) : Word :=
  let u32 : Word → Word := fun w => w &&& 0xFFFFFFFF#64
  let sg : Word → Int := fun w => (w.truncate 32 : BitVec 32).toInt
  match tag.toNat with
  | 1 => u32 (a + b)
  | 2 => a + b
  | 3 => floatOp .f32 fvAdd a b
  | 4 => floatOp .bf16 fvAdd a b
  | 5 => if sg a < sg b then u32 b else u32 a
  | 6 => if sg b < sg a then u32 b else u32 a
  | 7 => if (u32 a).toNat < (u32 b).toNat then u32 b else u32 a
  | 8 => if (u32 b).toNat < (u32 a).toNat then u32 b else u32 a
  | 9 => floatOp .f32 fvMax a b
  | 10 => floatOp .f32 fvMin a b
  | 11 => a ||| b
  | 12 => a &&& b
  | 13 => a ^^^ b
  | _ => a

/-- The identity of an operator tag. -/
def tagIdentity (tag : BitVec 4) : Word :=
  match tag.toNat with
  | 3 => 0x80000000 | 4 => 0x8000 | 5 => 0x80000000 | 6 => 0x7FFFFFFF | 8 => 0xFFFFFFFF | 9 => 0xFF800000
  | 10 => 0x7F800000 | 12 => 0xFFFFFFFF | _ => 0

/-- A new partial: every element at the identity, no touched bit set (R239). -/
def newPartial (tag : BitVec 4) : Partial :=
  let w := tagWidth tag
  ⟨tag, (List.range (128 / w)).flatMap (fun _ => leBytes w (tagIdentity tag).toNat), 0, 0⟩

def listSlice (l : List Byte) (o n : Nat) : List Byte := (l.drop o).take n

def listSet (l : List Byte) (o : Nat) (b : List Byte) : List Byte := l.take o ++ b ++ l.drop (o + b.length)

def maskOf (o n : Nat) : BitVec 128 := BitVec.ofNat 128 ((2 ^ n - 1) * 2 ^ o)

/-- Applies a reduction to the element of a partial at a byte offset (R183, R239). -/
def partialApply (p : Partial) (o n : Nat) (b : Word) : Partial :=
  let old := BitVec.ofNat 64 (leNat (listSlice p.bytes o n))
  let new := if n = 8 && tagWidth p.tag = 4 then
      -- a bitwise reduction of eight bytes acts byte by byte on two elements
      (match p.tag.toNat with | 11 => old ||| b | 12 => old &&& b | _ => old ^^^ b)
    else tagOp p.tag old b
  { p with bytes := listSet p.bytes o (leBytes n new.toNat), touched := p.touched ||| maskOf o n }

/-- The element of a partial, Absent if not touched. -/
def partialElem (p : Partial) (o n : Nat) : Option Word :=
  if p.touched.getLsbD o then some (BitVec.ofNat 64 (leNat (listSlice p.bytes o n))) else none

/-- Two partials of one slot combined by ⊕ (R241). -/
def partialJoin (p q : Partial) : Partial :=
  let w := tagWidth p.tag
  let es := (List.range (128 / w)).map (fun i => combine (tagOp p.tag) (partialElem p (i * w) w) (partialElem q (i * w) w))
  { p with bytes := es.flatMap (fun e => leBytes w ((e.getD (tagIdentity p.tag)).toNat)), touched := p.touched ||| q.touched
           bad := p.bad ||| q.bad }

def partialKey (core line : Nat) : Nat := 2048 * line + core

/-- The partials of a slot: parked, then those its holders give up. -/
def slotPartial (s : State) (line h : Nat) : Option Partial :=
  let e := dirAt s line
  let held := (e.holders.filter (fun c => c % 16 = h)).filterMap (fun c => tabGet s.partials (partialKey c line))
  match ((tabGet e.parked h).toList ++ held) with
  | [] => none
  | p :: r => some (r.foldl partialJoin p)

/-- The merged line of `Focus` (R244, R45): 128 bytes. -/
def focusBytes (s : State) (line : Nat) : List Byte :=
  let e := dirAt s line
  let home := memRead s.mem (128 * line) 128
  match e.st with
  | .faceted tag =>
    let w := tagWidth tag
    let ps := (List.range 16).map (slotPartial s line)
    (List.range (128 / w)).flatMap (fun i =>
      let h := BitVec.ofNat 64 (leNat (listSlice home (i * w) w))
      leBytes w (facetMerge (tagOp tag) h (ps.map (fun p => p.bind (fun p => partialElem p (i * w) w)))).toNat)
  | .gathering =>
    e.holders.foldl (fun acc c =>
      match tabGet s.partials (partialKey c line) with
      | some p => (List.range 128).map (fun i => if p.touched.getLsbD i then p.bytes.getD i 0 else acc.getD i 0)
      | none => acc) home
  | _ => home

/-- An uncorrectable error in a partial that the focus merges, or in a byte it gathers (R233). -/
def focusPoisons (s : State) (line : Nat) : Bool :=
  let e := dirAt s line
  e.parked.any (fun p => p.2.bad ≠ 0) || e.holders.any (fun c =>
    match tabGet s.partials (partialKey c line) with
    | some p => if e.st = .gathering then p.bad &&& p.touched ≠ 0 else p.bad ≠ 0
    | none => false)

def addPoison (s : State) (line : Nat) : State :=
  { s with poison := if s.poison.contains line then s.poison else line :: s.poison }

/-- `Focus` (R244). `slot` is the hart slot whose access caused it, for sw.pm12. -/
def focus (s : State) (line : Nat) (slot : Option Nat) : State :=
  let e := dirAt s line
  if isFaceted e then
    let s1 := { writeMem s (128 * line) (focusBytes s line) with
      partials := e.holders.foldl (fun t c => tabDel t (partialKey c line)) s.partials }
    let s2 := setDir { s1 with notices := s1.notices.filter (fun n => n.2 ≠ line) } line DirEntry.reset
    let s3 := if focusPoisons s line then addPoison s2 line else s2
    match slot with
    | some n => addPm s3 n 12 1
    | none => s3
  else s

/-! ### What an access waits for on its way to a line's home and there (R8, R164, R238, R249) -/

/-- The dies of the caches and engines that a request has to reach beyond a line's home: for a write the tracked copies, for
any access the holders of a facet and an engine that owns the line. -/
def reachedDies (s : State) (line : Nat) (write : Bool) : List Nat :=
  let e := dirAt s line
  let copies := if write then (e.sharers.filter (· ≠ hostCache)).map clusterOfCache ++
      (List.range 16).filter (fun c => ((e.map.map (fun m => m.getLsbD c)).getD false)) else []
  let holders := if isFaceted e then e.holders.map clusterOfCore else []
  let owner := match e.st with
    | .owned (.engine n) => ((tabGet s.cmds n).map (fun c => clusterOfCore c.issuer.core)).toList
    | _ => []
  (copies ++ holders ++ owner).map dieOfCluster

/-- A failed edge lies between a line's home and a copy, holder or owner that a request has to reach (R8, R378). -/
def copyCut (s : State) (line : Nat) (write : Bool) : Bool :=
  !s.edgeDown.isEmpty && (reachedDies s line write).any (diesCut s (stackOf (128 * line) / 2))

/-- A failed edge lies between the endpoint of the host transport, on die 0, and a cache that holds a host line: a request that
has to reach it waits (R8, R248, R378). -/
def hostCopiesCut (s : State) (line : Nat) : Bool :=
  !s.edgeDown.isEmpty &&
    ((hostLineAt s line).map (fun h => h.holders.any (fun c => diesCut s 0 (dieOfCluster (clusterOfCache c))))).getD false

/-- A failed edge lies on the way of a cache's notice to the home of a line. -/
def noticeCut (s : State) (cache line : Nat) : Bool :=
  diesCut s (dieOfCluster (clusterOfCache cache)) (if 128 * line < 0x8000000000 then stackOf (128 * line) / 2 else 0)

/-- An access of the line waits for the end of a wave on its bank (R164); a read that the home slice serves does not reach
the bank. -/
def waveHolds (s : State) (line : Nat) (write : Bool) : Bool :=
  inWave s (bankOfLine line) && (write || !inSlice s line)

/-- The access waits in the queue of the bank's channel. -/
def waitBank (s : State) (line : Nat) (who : Asker) (pc : Word) : State :=
  let b := bankOfLine line
  if s.bankWaits.any (fun w => decide (w.bank = b) && decide (w.who = who) && decide (w.pc = pc)) then s
  else { s with bankWaits := s.bankWaits ++ [⟨b, who, pc, s.ids⟩], ids := s.ids + 1 }

/-- An asker leaves the channel queues of the banks whose waves have ended: its access is served at this turn. -/
def leaveQueues (s : State) (p : Asker → Bool) : State :=
  { s with bankWaits := s.bankWaits.filter (fun w => !(p w.who && !inWave s w.bank)) }

/-- Takes a line back from an L1 or an engine that owns it (Table 11.4); the host's ownership needs its answer. -/
def recallLocal (s : State) (line : Nat) : State :=
  match (dirAt s line).st with
  | .owned .host => s
  | .owned _ => setDir s line { dirAt s line with st := .uncached }
  | _ => s

/-- The home is asked to take a line back from the host: Recall once, until WbOwn comes (R249). -/
def askRecall (s : State) (who : Asker) (line part : Nat) : State :=
  if hasAsk s (fun a => a.code = 0x09 && a.addr = 128 * line) then s
  else sendAsk s who 0x09 (128 * line) 0 0 part []

/-- Inval to the host for a device line it shares, once, until InvAck comes (R249). -/
def askInval (s : State) (who : Asker) (line part : Nat) : State :=
  if hasAsk s (fun a => a.code = 0x05 && a.addr = 128 * line) then s
  else sendAsk s who 0x05 (128 * line) 0 0 part []

/-- The home asks the host to give up a line: Recall for an owned one, Inval for a shared one (R249). -/
def askHost (s : State) (who : Asker) (line part : Nat) : State :=
  if hostOwns s line then askRecall s who line part else askInval s who line part

/-- WHAT AN ACCESS OF A DEVICE LINE WAITS FOR at its home, and the state it waits in: a transition in progress (R238), the
host's ownership or, for a write, its copy (R249), or a wave on the line's bank (R164). `none` where it may be served. -/
def homeWait (s : State) (who : Asker) (pc : Word) (part line : Nat) (write : Bool) : Option State :=
  if lineBusy s line then some s
  else if hostOwns s line || (write && hostShares s line) then some (askHost s who line part)
  else if waveHolds s line write then some (waitBank s line who pc)
  else none

/-- A line ready at its home for an access that focuses it: focused, and not owned by a core or engine. -/
def homeLine (s : State) (line : Nat) (slot : Option Nat) : State := noteChannel (recallLocal (focus s line slot) line) line

/-- The same for a request that no cache takes the line for: its slice marks the use of the line. -/
def servedLine (s : State) (line : Nat) (slot : Option Nat) : State := useSlice (homeLine s line slot) line none false

/-- Every line of a byte range made ready. -/
def homeRange (s : State) (pa n : Nat) (slot : Option Nat) : State :=
  if n = 0 then s
  else (List.range (lineOf (pa + n - 1) + 1 - lineOf pa)).foldl (fun s i => homeLine s (lineOf pa + i) slot) s

/-! ### Poison (R165) -/

/-- The first poisoned line of a range. -/
def poisonIn (s : State) (pa n : Nat) : Option Nat :=
  ((List.range (lineOf (pa + n - 1) + 1 - lineOf pa)).map (· + lineOf pa)).find? (fun l => n ≠ 0 && s.poison.contains l)

/-- The waiters on a word of the host's memory, but the asker, are evaluated at a counter operation of the device on it
(R339). -/
def wakeHost (s : State) (who : Asker) (pa : Nat) (v : Word) : State :=
  s.ctxs.foldl (fun s e => [Side.a, .x].foldl (fun s sd =>
    match (seqOf (ctxAt s e.1) sd).status with
    | .waiting (.counter w ..) => if w = pa && who ≠ .seq e.1 sd then evalWaiter s e.1 sd v else s
    | _ => s) s) s

/-- A write at the home: whole lines clear their poison, and the waiters on what it writes are evaluated. -/
def homeWrite (s : State) (pa : Nat) (b : List Byte) : State :=
  let whole := fun l => pa ≤ 128 * l && 128 * l + 128 ≤ pa + b.length
  wakeLocal { writeMem s pa b with
    poison := if s.poison.isEmpty then s.poison else s.poison.filter (fun l => !whole l) } pa b.length

/-- What the other copies of a written line become: updated copies stay, invalidated ones go (R235). -/
def afterWrite (s : State) (line : Nat) (policy : WPolicy) (writer : List Nat) : State :=
  match (dirAt s line).st with
  | .shared => if policy = .update then s else dropCopies s line writer
  | _ => s

/-! ### Stores on their way -/

/-- The write has not been made at its home. -/
def Wt.onWay (w : Wt) : Bool := w.phase = .toHome || w.phase = .hostCopy

/-- The stores of a core that have not performed, oldest first. -/
def coreWts (s : State) (core : Nat) : List (Nat × Wt) :=
  s.wts.filter (fun e => e.2.core = core && e.2.cmd.isNone && e.2.phase ≠ .stopped)

/-- Any store of a core to a line that is still on its way. -/
def coreWtOn (s : State) (core line : Nat) : Bool :=
  s.wts.any (fun e => e.2.core = core && e.2.cmd.isNone && lineOf e.2.pa = line)

/-- Bytes as a core reads them: the home's, with the core's own stores on their way over them (R178, R221; log entry
5). -/
def overlay (w : List (Nat × Wt)) (pa : Nat) (b : List Byte) : List Byte :=
  w.foldl (fun acc e =>
    (List.range acc.length).map (fun i =>
      if e.2.pa ≤ pa + i && pa + i < e.2.pa + e.2.bytes.length then e.2.bytes.getD (pa + i - e.2.pa) 0
      else acc.getD i 0)) b

def coreRead (s : State) (core pa n : Nat) : List Byte := overlay (coreWts s core) pa (memRead s.mem pa n)

/-- The pieces of a byte range that lie in one line each. -/
def splitLines (pa : Nat) (b : List Byte) : Nat → List (Nat × List Byte)
  | 0 => []
  | n + 1 =>
    if b.isEmpty then []
    else
      let k := 128 - pa % 128
      (pa, b.take k) :: splitLines (pa + k) (b.drop k) n

/-- Stores enter the write-through path, one entry for each line touched. -/
def issueWts (s : State) (base : Wt) : List (Nat × List Byte) → State
  | [] => s
  | (pa, b) :: r =>
    let w : Wt := { base with pa := pa, bytes := b, va := base.va + BitVec.ofNat 64 (pa - base.pa) }
    issueWts { s with wts := tabPut s.wts s.ids w, ids := s.ids + 1 } base r

/-! ### Fences and releases (R206, R217, R222 to R224, R227) -/

/-- Elements a store stream of the sequencer has not written: each is a store issued at its push (R257). -/
def streamStores (c : Ctx) (sd : Side) (cut : Nat) : Bool :=
  [0, 1, 2, 3].any (fun i =>
    let b := c.binds.getD i Binding.unbound
    b.bound && b.dir && decide (b.own = sd) && (c.q.getD i []).any (fun e => e.stream && decide (e.id < cut)))

/-- A context stands in a slot of the core. -/
def runsOn (c : Ctx) (core : Nat) : Bool :=
  match c.place with
  | .inSlot n => coreOfSlot n = core
  | _ => false

/-- Stores of a core numbered below `cut` that have not performed outside the core, those of its store streams
included. -/
def coreStoresBelow (s : State) (core cut : Nat) : Bool :=
  s.wts.any (fun e => e.2.core = core && e.2.cmd.isNone && e.2.isStore && decide (e.1 < cut)) ||
    s.ctxs.any (fun e => runsOn e.2 core && (streamStores e.2 .a cut || streamStores e.2 .x cut))

/-- Engine commands of a sequencer's context numbered below `cut` that have not completed. -/
def cmdsBelow (s : State) (ctx : Nat) (sd : Side) (cut : Nat) : Bool :=
  let c := ctxAt s ctx
  let mine (i : Issuer) : Bool := i.ctx = ctx && i.task = c.task && i.iter = c.iter && i.side = sd
  s.cmds.any (fun e => mine e.2.issuer && decide (e.1 < cut)) ||
    s.bankCmds.any (fun e => mine e.2.issuer && decide (e.1 < cut))

/-- Elements of the sequencer's streams in flight: pushed and not written; asked for and not come, or waiting in a bank's
queue (R164, R256, R257). -/
def streamsOut (s : State) (ctx : Nat) (c : Ctx) (sd : Side) : Nat :=
  ([0, 1, 2, 3].map (fun i =>
    let b := c.binds.getD i Binding.unbound
    if decide (b.own = sd) then
      if b.dir then (c.q.getD i []).countP QEnt.stream
      else s.asks.countP (fun e => e.2.who = .stream ctx i) +
        (if s.walks.any (fun w => w.1 = .stream ctx i) then 0 else s.bankWaits.countP (fun w => w.who = .stream ctx i))
    else 0)).sum

/-- A walk in flight is made for a sequencer: for a load stream or an engine command of its own (Table 8.1). A sequencer that
waits for a walk of its own stands at its word. -/
def walkOf (s : State) (ctx : Nat) (c : Ctx) (sd : Side) : Asker → Bool
  | .stream k q => k = ctx && decide ((c.binds.getD q Binding.unbound).own = sd)
  | .cmd n =>
    let mine (i : Issuer) : Bool := i.ctx = ctx && i.task = c.task && i.iter = c.iter && i.side = sd
    ((tabGet s.cmds n).map (fun e => mine e.issuer)).getD false ||
      ((tabGet s.bankCmds n).map (fun e => mine e.issuer)).getD false
  | _ => false

/-- Walks in flight of a sequencer (R335, R341). -/
def walksOut (s : State) (ctx : Nat) (c : Ctx) (sd : Side) : Nat := s.walks.countP (fun w => walkOf s ctx c sd w.1)

/-- Operations of a class a sequencer has in flight (R341): stores, a vector store being one (log entry 26), matrix
instructions that access the scratchpad, engine commands, and the walks of its streams. A load is complete when it returns. -/
def outstanding (s : State) (ctx : Nat) (sd : Side) (c : AClass) : Nat :=
  let x := ctxAt s ctx
  let stores := ((s.wts.filter (fun e => e.2.ctx = ctx && e.2.task = x.task && e.2.iter = x.iter && e.2.side = sd &&
    e.2.cmd.isNone && e.2.isStore && e.2.cls = c)).map (fun e => e.2.op)).dedup.length
  let mine (i : Issuer) : Bool := i.ctx = ctx && i.task = x.task && i.iter = x.iter && i.side = sd
  match c with
  | .s => stores + streamsOut s ctx x sd
  | .v => stores + s.mx.countP (fun e => e.2.ctx = ctx && sd = .x && !(match e.2.kind with | .mm => true | _ => false))
  | .e => s.cmds.countP (fun e => mine e.2.issuer) + s.bankCmds.countP (fun e => mine e.2.issuer)
  | .t => walksOut s ctx x sd
  | .i => 0

/-- An operation of a class in `p` numbered below `cut` has not performed at the scope (R206, R224; log entry 7). -/
def pending (s : State) (key : Nat) (sd : Side) (core : Nat) (p : BitVec 5) (scope : BitVec 3) (cut : Nat) : Bool :=
  ((p.getLsbD 0 || p.getLsbD 1) && decide (3 ≤ scope.toNat) && coreStoresBelow s core cut) ||
    (p.getLsbD 0 && streamStores (ctxAt s key) sd cut) ||
    (p.getLsbD 2 && cmdsBelow s key sd cut) ||
    (p.getLsbD 3 && s.walks.any (fun w => decide (w.2 < cut) && walkOf s key (ctxAt s key) sd w.1))

def classBit : AClass → Nat
  | .s => 0 | .v => 1 | .e => 2 | .t => 3 | .i => 4

/-- The scope at which a fence orders what acts at the homes: the wider of its own and cluster scope (R217, R227). -/
def atHomes (scope : BitVec 3) : BitVec 3 := if scope.toNat < 3 then 3 else scope

/-- The fences of a sequencer that an operation comes after; `since` is the number of one begun earlier, if it was. -/
def fencesOver (s : State) (key : Nat) (sd : Side) (since : Option Nat) : List FenceRec :=
  (seqOf (ctxAt s key) sd).fences.filter (fun f =>
    match since with
    | some n => decide (f.cut ≤ n)
    | none => true)

/-- The number at which an asker's walk in flight began. -/
def walkSince (s : State) (who : Asker) : Option Nat := (s.walks.find? (fun w => w.1 = who)).map Prod.snd

/-- A fence with T in Q holds back the walks of a sequencer (R227). -/
def walksHeld (s : State) (key : Nat) (sd : Side) (since : Option Nat) : Bool :=
  (fencesOver s key sd since).any (fun f =>
    f.q.getLsbD 3 && pending s key sd (ctxAt s key).core f.p (atHomes f.scope) f.cut)

/-- A fence in force of a sequencer holds back its access of the class. Engine commands and fetches act at the homes,
whatever the scope (R206, R217, R228). -/
def fenceHolds (s : State) (key : Nat) (sd : Side) (core : Nat) (c : AClass) (since : Option Nat) : Bool :=
  (fencesOver s key sd since).any (fun f =>
    f.q.getLsbD (classBit c) && pending s key sd core f.p
      (match c with | .s => f.scope | .v => f.scope | _ => atHomes f.scope) f.cut)

/-- A fence of the sequencer at work holds back an access of the class. -/
def fenceBlocks (s : State) (c : AClass) : Bool := fenceHolds s (curKey s) s.cur.side (curCore s) c none

/-- Predecessors of a `cadd` that have not performed at its scope (R338; log entry 7). -/
def addHeld (s : State) (w : Wt) : Bool :=
  match w.kind with
  | .cadd _ p scope cut =>
    let mine (i : Issuer) : Bool := i.ctx = w.ctx && i.task = w.task && i.iter = w.iter && i.side = w.side
    let c := ctxAt s w.ctx
    ((p.getLsbD 0 || p.getLsbD 1) && decide (3 ≤ scope.toNat) && coreStoresBelow s w.core cut) ||
      (p.getLsbD 0 && c.task = w.task && c.iter = w.iter && streamStores c w.side cut) ||
      (p.getLsbD 2 && (s.cmds.any (fun e => mine e.2.issuer && decide (e.1 < cut)) ||
        s.bankCmds.any (fun e => mine e.2.issuer && decide (e.1 < cut)))) ||
      (p.getLsbD 3 && c.task = w.task && c.iter = w.iter &&
        s.walks.any (fun e => decide (e.2 < cut) && walkOf s w.ctx c w.side e.1))
  | _ => false

/-- An add of another sequencer that its predecessors hold: nobody waits for it (R230). -/
def othersHeld (s : State) (key : Nat) (sd : Side) (w : Wt) : Bool :=
  !(decide (w.ctx = key) && decide (w.side = sd)) && addHeld s w

/-- Some write of the core that covers the bytes has not performed, an add apart that predecessors of another sequencer
hold. -/
def coreWtOver (s : State) (core pa n : Nat) : Bool :=
  s.wts.any (fun e => e.2.core = core && e.2.cmd.isNone && e.2.covers pa n && !othersHeld s (curKey s) s.cur.side e.2)

end Sys2Proof.Machine
end

