-- ==== Sys2Proof/Machine/Trans.lean ====
section
/-!
DEFINITION. The physical address map (R157 to R161, R167, R168), page walks and translation caches (R301 to R304), and
the checks of an access (R177).
-/

namespace Sys2Proof.Machine

/-- Where a physical address is served (Table 7.2). -/
inductive Target where
  | device (pa : Nat)
  /-- a scratchpad byte, by its full address -/
  | scratch (pa : Nat)
  | host (pa : Nat)
  /-- the own node's memory through the fabric window, uncached (R159) -/
  | own (pa : Nat)
  | fabric (node off : Nat)
  | nothing
  deriving DecidableEq, Repr, Inhabited

def deviceEnd : Nat := 0x8000000000
def deviceLine (line : Nat) : Bool := 128 * line < deviceEnd
def scratchBase : Nat := 0x8000000000
def scratchOf (core : Nat) : Nat := scratchBase + core * 0x100000

/-- The window of a physical address, for an access of a core. -/
def window (s : State) (core : Nat) (pa : Nat) : Target :=
  if pa < deviceEnd then .device pa
  else if pa < scratchBase + 0x60000000 then .scratch pa
  else if scratchBase + 0x7FF00000 ≤ pa && pa < scratchBase + 0x80000000 then
    .scratch (scratchOf core + (pa - (scratchBase + 0x7FF00000)))
  else if 0x1000000000000 ≤ pa && pa < 0x2000000000000 then .host pa
  else if 0x4000000000000 ≤ pa && pa < 0x8000000000000 then
    if bitsOf pa 39 11 = s.node.toNat then .own (pa % deviceEnd) else .fabric (bitsOf pa 39 11) (pa % deviceEnd)
  else .nothing

/-- The full physical address of a store's target. -/
def targetPa : Target → Nat
  | .device pa => pa
  | .scratch pa => pa
  | .host pa => pa
  | .own pa => pa
  | .fabric node off => 0x4000000000000 + node * 2 ^ 39 + off
  | .nothing => 0

def Target.isOwn : Target → Bool
  | .own _ => true
  | _ => false

/-- The device-memory address of a byte of a row of a stack-local bank (Table 7.3). -/
def bankAddr (stack bank row byte : Nat) : Nat :=
  byte + bitsOf bank 6 5 * 2 ^ 10 + bitsOf bank 0 1 * 2 ^ 15 + stack * 2 ^ 16 + bitsOf bank 1 5 * 2 ^ 19 + row * 2 ^ 24

/-- The partition holds the granule of a device address (R160). -/
def holdsGranule (p : Part) (pa : Nat) : Bool := p.gran.getLsbD (pa / 2 ^ 30)

/-- The address lies in some partition's bank region (R161). -/
def inBankRegion (s : State) (pa : Nat) : Bool :=
  s.parts.any (fun e => e.2.configured &&
    (let r := e.2.breg.getD (stackOf pa) (0, 0); decide (r.1 ≤ rowOf pa) && decide (rowOf pa < r.2)))

/-- The block the scheduler assigned to a context (R86). -/
def ctxBlock (s : State) (key : Nat) : Nat := (ctxAt s key).cblk

/-- Bytes of a context's block for its slice count (Table 4.5). -/
def ctxBytes (slices : Nat) : Nat := 0x2900 + 1024 * slices + 32 * 1024 * slices

/-- The room between the blocks that the scheduler assigns, for the largest of Table 4.5: a context may acquire slices
later (R122). -/
def blockRoom : Nat := 0x66000

/-- The block for a new context: where in device memory the blocks lie is the scheduler's choice (R86; log entry 21). -/
def newBlock (key : Nat) : Nat := 128 * (Config.blockArea % 0xFC000000) + key * blockRoom

/-- The address lies in the block of a context that exists (R86, R91). -/
def inCtxBlock (s : State) (pa : Nat) : Bool :=
  s.ctxs.any (fun e => decide (e.2.cblk ≤ pa) && decide (pa < e.2.cblk + ctxBytes e.2.slices))

/-! ### Links between dies and to the stacks (R8, R378, Table 17.2) -/

/-- The edges and the stack interface that an access of a core to a target uses. -/
def linksUsed (s : State) (core : Nat) : Target → List Nat
  | .device pa | .own pa => deviceLinks core pa
  | .host _ => edgesBetween (dieOfCluster (clusterOfCore core)) 0
  | .fabric node _ => edgesBetween (dieOfCluster (clusterOfCore core)) (tabD s.routes node 0 / 2)
  | _ => []

/-- A failed link lies on the way: traffic is never routed around it (R378), so the access waits (log entry 32). -/
def cutOff (s : State) (core : Nat) (t : Target) : Bool := s.edgeDown.any (fun l => (linksUsed s core t).contains l)

/-- The checks of R160, R161 and R86 on a device address. -/
def deviceAllowed (s : State) (part pa : Nat) : Bool :=
  pa < deviceEnd && holdsGranule (partAt s part) pa && !inBankRegion s pa && !inCtxBlock s pa

/-- The causes of ACCESS_DENIED beyond the page's permissions (R177), for an access from a core of a partition. -/
def targetAllowed (s : State) (part core : Nat) : Target → Bool
  | .device pa => deviceAllowed s part pa
  | .scratch pa => clusterOfCore ((pa - scratchBase) / 0x100000) = clusterOfCore core
  | .host _ => true
  | .own pa => deviceAllowed s part pa
  | .fabric node _ => s.domain.getLsbD node
  | .nothing => false

/-! ### Leaves (Table 14.4) -/

def leafR (w : Word) : Bool := w.getLsbD 2
def leafW (w : Word) : Bool := w.getLsbD 3
def leafX (w : Word) : Bool := w.getLsbD 4
def leafU (w : Word) : Bool := w.getLsbD 5
def leafCL (w : Word) : Nat := bitsOf w.toNat 6 2
/-- CMP and EP: whether the page's lines may be held compressed, and their eviction priority. -/
def leafCMP (w : Word) : Bool := w.getLsbD 10
def leafEP (w : Word) : Nat := bitsOf w.toNat 11 2

def leafWP (w : Word) : WPolicy :=
  match bitsOf w.toNat 8 2 with | 0 => .update | 1 => .invalidate | _ => .stream

/-- The priority at which the home slice allocates a line for an access made through a page, where it does (Table 7.6); an
access without a page allocates nothing. -/
def leafKeeps (w : Word) : Option Nat :=
  if !w.getLsbD 0 || leafCL w = 2 then none else some (if leafWP w = .stream then 0 else leafEP w)

/-- What an access needs of a page. -/
structure Need where
  r : Bool
  w : Bool
  x : Bool
  deriving DecidableEq, Repr, Inhabited

def needR : Need := ⟨true, false, false⟩
def needW : Need := ⟨false, true, false⟩
def needRW : Need := ⟨true, true, false⟩
def needX : Need := ⟨false, false, true⟩

/-- A physical address in a scratchpad window (Table 7.2). -/
def inScratch (pa : Nat) : Bool := decide (scratchBase ≤ pa) && decide (pa < scratchBase + 0x80000000)

/-- What an access asks of the page of a physical address: of a scratchpad page only read, write and user count (R168; log
entry 69). -/
def needAt (pa : Nat) (n : Need) : Need := if inScratch pa then { n with x := false } else n

/-- The page grants the access. -/
def leafGrants (w : Word) (n : Need) : Bool :=
  leafU w && (!n.r || leafR w) && (!n.w || leafW w) && (!n.x || leafX w)

/-- Size of the page a level's leaf maps, by its exponent (Table 14.2). -/
def pageBits (lev : Nat) : Nat := if lev = 2 then 30 else if lev = 1 then 21 else 16

def vaIndex (va lev : Nat) : Nat :=
  match lev with
  | 3 => bitsOf va 39 9
  | 2 => bitsOf va 30 9
  | 1 => bitsOf va 21 9
  | _ => bitsOf va 16 5

/-- A present entry is malformed (R303). -/
def entryMalformed (e lev : Nat) : Bool :=
  if bitsOf e 1 1 = 1 then
    lev = 3 || bitsOf e 13 3 ≠ 0 || bitsOf e 56 8 ≠ 0 || bitsOf e 6 2 = 3 || bitsOf e 8 2 = 3 ||
      bitsOf e 16 (pageBits lev - 16) ≠ 0
  else
    lev = 0 || bitsOf e 2 6 ≠ 0 || bitsOf e 56 8 ≠ 0 || (1 < lev && bitsOf e 8 4 ≠ 0)

/-- PAGE_ABSENT and ACCESS_DENIED as R303 and Table 17.2 give their fields. -/
def pageAbsent (va : Nat) (i lev : Nat) : FaultReq :=
  ⟨0x05, BitVec.ofNat 64 va, 0, BitVec.ofNat 16 i, BitVec.ofNat 2 lev, none⟩
def accessDenied (va : Nat) (i : Nat) : FaultReq := ⟨0x06, BitVec.ofNat 64 va, 0, BitVec.ofNat 16 i, 0, none⟩
def walkDenied (entry va i lev : Nat) : FaultReq :=
  ⟨0x06, BitVec.ofNat 64 entry, BitVec.ofNat 64 va, BitVec.ofNat 16 i, BitVec.ofNat 2 lev, none⟩
def uncorrectable (va : Nat) (line i : Nat) : FaultReq :=
  ⟨0x11, BitVec.ofNat 64 va, BitVec.ofNat 64 (128 * line), BitVec.ofNat 16 i, 0, none⟩

/-- Who asks the host or another package: the executing sequencer, or the load stream that reads its next element. -/
def curAsker (s : State) : Asker :=
  match s.cur.strm with
  | none => .seq (curKey s) s.cur.side
  | some q => .stream (curKey s) q

/-- Where the asker stands: the PC of a sequencer. -/
def askerPc (s : State) : Asker → Word
  | .seq key sd => (seqOf (ctxAt s key) sd).pc
  | .fetch key sd => (seqOf (ctxAt s key) sd).pc
  | _ => 0

/-- An access that has no translation yet: it faults, or it waits, and `g` makes the state it waits in of the state before
it. -/
inductive NoHit where
  | fault (f : FaultReq)
  | wait (g : State → State)

/-- What the home of a device line makes an access wait for, links included: those from the core, and those to the copies,
holders and owner it has to reach. -/
def homeHolds (s : State) (who : Asker) (part core line : Nat) (write : Bool) : Option (State → State) :=
  if lineCut s core line || copyCut s line write then some id
  else (homeWait s who (askerPc s who) part line write).map
    (fun _ t => (homeWait t who (askerPc t who) part line write).getD t)

/-- Reads that are no core's, for R245: of an engine and of a table walker. -/
def engineAgent : Nat := 1665
def walkerAgent : Nat := 1666

/-- A walk from a table at a level (R303): the page's address bits and its leaf, or the fault. The entries are read at
their homes (R244, R249; log entry 8). -/
def walkFrom (s : State) (who : Asker) (part core va i : Nat) (slot : Option Nat) :
    Nat → Nat → State × Except NoHit (Nat × Word)
  | lev, t =>
    let a := t + 8 * vaIndex va lev
    if !deviceAllowed s part a then (s, .error (.fault (walkDenied a va i lev)))
    else
      match homeHolds s who part core (lineOf a) false with
      | some g => (s, .error (.wait g))
      | none =>
        let s1 := noteRead (homeLine s (lineOf a) slot) (lineOf a) walkerAgent
        if poisoned s1 a then (s1, .error (.fault (uncorrectable va (lineOf a) i)))
        else
          let e := memNat s1.mem a 8
          if e % 2 = 0 then (s1, .error (.fault (pageAbsent va i lev)))
          else if entryMalformed e lev then (s1, .error (.fault (walkDenied a va i lev)))
          else if bitsOf e 1 1 = 1 then (s1, .ok (lev, BitVec.ofNat 64 e))
          else
            match lev with
            | 0 => (s1, .error (.fault (walkDenied a va i 0)))
            | l + 1 => walkFrom s1 who part core va i slot l (bitsOf e 8 48 * 256)

/-- A translated page: its physical address for `va`, and its leaf. -/
structure Xl where
  pa : Nat
  leaf : Word
  deriving DecidableEq, Repr, Inhabited

def tlbOf (s : State) (unit : Nat) : List Tlb := tabD s.tlb unit []

/-- The number of a cluster's translation cache. -/
def clusterTlb (cluster : Nat) : Nat := 4096 + cluster

/-- A translation enters the caches the access goes through, where it is not yet. -/
def fillTlbs (s : State) (caches : List Nat) (t : Tlb) : State :=
  caches.foldl (fun s u => if (tlbOf s u).contains t then s else { s with tlb := tabPut s.tlb u (t :: tlbOf s u) }) s

def leafPa (leaf : Word) (bits va : Nat) : Nat := bitsOf leaf.toNat 16 40 * 65536 + va % 2 ^ bits

/-- A fence before a command with T in Q holds back the walks of the command (R227). -/
def commandWalksHeld (s : State) (i : Issuer) : Bool :=
  let c := ctxAt s i.ctx
  c.task = i.task && c.iter = i.iter && (seqOf c i.side).fences.any (fun f =>
    decide (f.cut ≤ i.id) && f.q.getLsbD 3 && pending s i.ctx i.side i.core f.p (atHomes f.scope) f.cut)

/-- The walks of an asker are held back: a sequencer's fetches, streams and commands walk for it (R217, R227). -/
def askerWalksHeld (s : State) : Asker → Bool
  | .cmd n =>
    (match tabGet s.cmds n, tabGet s.bankCmds n with
      | some c, _ => commandWalksHeld s c.issuer
      | none, some c => commandWalksHeld s c.issuer
      | none, none => false)
  | .seq key sd => walksHeld s key sd none
  | .fetch key sd => walksHeld s key sd none
  | .stream key q => walksHeld s key ((ctxAt s key).binds.getD q Binding.unbound).own (walkSince s (.stream key q))
  | _ => false

/-- Translation of one address (R301 to R304): from the translation caches of the core or engine and of its cluster
(Table 14.1), or by a walk whose leaf they then hold, once no fence holds it back. `i` is the element index a fault reports. -/
def translate (s : State) (who : Asker) (caches : List Nat) (part core : Nat) (slot : Option Nat) (va i : Nat) (n : Need) :
    State × Except NoHit Xl :=
  if 2 ^ 48 ≤ va then (s, .error (.fault (accessDenied va i)))
  else
    match (caches.flatMap (tlbOf s)).find? (fun t => t.part = part && va / 2 ^ t.size = t.va / 2 ^ t.size) with
    | some t =>
      let s1 := if (tlbOf s (caches.headD 0)).contains t then s else fillTlbs s caches t
      if leafGrants t.leaf (needAt (leafPa t.leaf t.size va) n) then (s1, .ok ⟨leafPa t.leaf t.size va, t.leaf⟩)
      else (s1, .error (.fault (accessDenied va i)))
    | none =>
      if askerWalksHeld s who then (s, .error (.wait id))
      else
        let s0 := match slot with | some k => addPm s k 15 1 | none => s
        match walkFrom s0 who part core va i slot 3 (partAt s part).ptroot.toNat with
        | (s1, .error f) => (s1, .error f)
        | (s1, .ok (lev, leaf)) =>
          let s2 := fillTlbs s1 caches ⟨part, va, pageBits lev, leaf⟩
          if leafGrants leaf (needAt (leafPa leaf (pageBits lev) va) n) then (s2, .ok ⟨leafPa leaf (pageBits lev) va, leaf⟩)
          else (s2, .error (.fault (accessDenied va i)))

/-- A checked access of `len` bytes inside one page: translation, then the window and its checks (R177). -/
structure Hit where
  tgt : Target
  leaf : Word
  va : Nat
  elem : Nat
  /-- the eviction priority at which caches allocate the line: the page's, 0 under stream, or the instruction's own
  (R172, R180) -/
  ep : Nat
  deriving DecidableEq, Repr, Inhabited

/-- The check of an access made for an engine or a sequencer, through its translation caches. -/
def checkBy (s : State) (who : Asker) (caches : List Nat) (part core : Nat) (slot : Option Nat) (va i : Nat) (n : Need) :
    State × Except NoHit Hit :=
  match translate s who caches part core slot va i n with
  | (s1, .error f) => (s1, .error f)
  | (s1, .ok x) =>
    let t := window s1 core x.pa
    if targetAllowed s1 part core t then
      (s1, .ok ⟨t, x.leaf, va, i, if leafWP x.leaf = .stream then 0 else leafEP x.leaf⟩)
    else (s1, .error (.fault (accessDenied va i)))

/-- The check of an access of the sequencer at work, made for it or for a stream of its context. -/
def checkFor (s : State) (who : Asker) (va i : Nat) (n : Need) : State × Except NoHit Hit :=
  checkBy s who [curCore s, clusterTlb (clusterOfCore (curCore s))] (curPart s) (curCore s) (some s.cur.slot) va i n

/-- What the translation of an access leaves of a state. -/
def walkedFor (who : Asker) (va i : Nat) (n : Need) (t : State) : State := (checkFor t who va i n).1

/-- The same for an access of the sequencer at work itself. -/
def walked (va i : Nat) (n : Need) (t : State) : State := walkedFor (curAsker t) va i n t

/-- A fault after a walk leaves what the walk left. -/
def afterWalk {α : Type} (g : State → State) : Res α → Res α
  | .error (.fault f) => .error (.walkFault f g)
  | .error (.walkFault f h) => .error (.walkFault f (fun t => h (g t)))
  | r => r

/-- What accesses that have been made leave of a state, where a fault of their instruction comes later. -/
def leftBy {α : Type} (f : State → Res (State × α)) (t : State) : State :=
  match f t with
  | .ok (u, _) => u
  | .error (.walkFault _ g) => g t
  | _ => t

/-- Accesses, and what follows them: a fault there leaves what they left. -/
def andThen {α β : Type} (f : State → Res (State × α)) (s : State) (k : State × α → Res β) : Res β := do
  let x ← f s
  afterWalk (leftBy f) (k x)

/-- The check as the executing sequencer makes it. A fault leaves what its walk left: focused table lines, cached
translations and the counts of the walk; nothing else changed (R59). -/
def accessFor (s : State) (who : Asker) (va : Word) (i : Nat) (n : Need) : Res (State × Hit) :=
  match checkFor s who va.toNat i n with
  | (_, .error (.fault f)) => .error (.walkFault f (walkedFor who va.toNat i n))
  | (_, .error (.wait g)) => .error (.wait g)
  | (s1, .ok a) => .ok (s1, a)

/-- An access of the sequencer at work itself: its own, or that of the load stream at work. -/
def access (s : State) (va : Word) (i : Nat) (n : Need) : Res (State × Hit) := accessFor s (curAsker s) va i n

end Sys2Proof.Machine
end

