-- ==== Sys2Proof/Machine/Operands.lean ====
section
/-!
DEFINITION. Operands: the classes of R51, the conditions of the register cache and of the queues (R53, R84, R256, R257),
reading sources with their pops and last-use marks (R52), and writing a scalar destination with the last-result file
(R73).
-/

namespace Sys2Proof.Machine

/-- What an operand position accepts (R51 and the instructions' own tables). -/
inductive OpClass where
  /-- scalar source: x, o, l, q, k, immediate -/
  | ssrc
  /-- scalar source other than an immediate (`jr`) -/
  | jsrc
  /-- scalar destination: x, o, q -/
  | sdst
  /-- link destination: x, o -/
  | link
  /-- bq -/
  | bqName
  /-- m -/
  | mName
  /-- q0 to q3 as a name, neither pushed nor popped -/
  | qName
  /-- vector source: v, w (pop), immediate -/
  | vsrc
  /-- a v register, source or destination -/
  | vreg
  /-- destination of a vector load: v on X, w (push) on A -/
  | vldst
  | acc
  | tile
  /-- a tile, or a scalar source -/
  | tileOrSrc
  /-- a v register or a scalar destination (`vred`) -/
  | redDst
  deriving DecidableEq, Repr, Inhabited

/-- An operand: its position (Table 17.2: 1 D, 2 A, 3 B, 4 C), what the position accepts, what stands there. -/
structure Opnd where
  pos : BitVec 16
  cls : OpClass
  sp : Spec
  deriving DecidableEq, Repr, Inhabited

def scalarSource : Spec → Bool
  | .x _ _ => true
  | .o _ => true
  | .l _ => true
  | .q _ => true
  | .k i => i.toNat < 6
  | .imm _ => true
  | _ => false

/-- The specifier's class is accepted there and on that sequencer, and a destination carries no last-use mark (R51). -/
def classOk (sd : Side) (c : OpClass) (sp : Spec) : Bool :=
  match c with
  | .ssrc => scalarSource sp
  | .jsrc => scalarSource sp && (match sp with | .imm _ => false | _ => true)
  | .sdst => (match sp with | .x l _ => !l | .o _ => true | .q _ => true | _ => false)
  | .link => (match sp with | .x l _ => !l | .o _ => true | _ => false)
  | .bqName => decide (sp = .bq)
  | .mName => decide (sp = .m) && decide (sd = .x)
  | .qName => (match sp with | .q _ => true | _ => false)
  | .vsrc => decide (sd = .x) && (match sp with | .v _ => true | .w _ => true | .imm _ => true | _ => false)
  | .vreg => decide (sd = .x) && (match sp with | .v _ => true | _ => false)
  | .vldst => (match sp with | .v _ => decide (sd = .x) | .w _ => decide (sd = .a) | _ => false)
  | .acc => decide (sd = .x) && (match sp with | .acc _ => true | _ => false)
  | .tile => (match sp with | .t _ => true | _ => false)
  | .tileOrSrc => scalarSource sp || (match sp with | .t _ => true | _ => false)
  | .redDst => (match sp with
    | .x l _ => !l | .o _ => true | .q _ => true | .v _ => decide (sd = .x) | _ => false)

/-- The position takes a value from its specifier. -/
def isSource : OpClass → Bool
  | .ssrc | .jsrc | .vsrc | .tileOrSrc => true
  | _ => false

def isPush : OpClass → Bool
  | .sdst | .vldst | .redDst => true
  | _ => false

/-! ### Queues and streams (R251 to R258) -/

def qOf (c : Ctx) (i : BitVec 2) : List QEnt := c.q[i.toNat]'i.isLt
def wOf (c : Ctx) (i : BitVec 1) : List VReg := c.w[i.toNat]'i.isLt
def bindOf (c : Ctx) (i : BitVec 2) : Binding := c.binds[i.toNat]'i.isLt

def setQ (c : Ctx) (i : BitVec 2) (l : List QEnt) : Ctx := { c with q := c.q.set i.toNat l i.isLt }
def setW (c : Ctx) (i : BitVec 1) (l : List VReg) : Ctx := { c with w := c.w.set i.toNat l i.isLt }
def setBind (c : Ctx) (i : BitVec 2) (b : Binding) : Ctx := { c with binds := c.binds.set i.toNat b i.isLt }

/-- Entries a stream put there: read ahead by a load stream, or not yet written by a store stream. -/
def streamCount (l : List QEnt) : Nat := l.countP QEnt.stream

/-- Bound to a load stream (R256): the binding ends when its last element has been pushed. -/
def loadBound (c : Ctx) (i : BitVec 2) : Bool :=
  let b := bindOf c i
  b.bound && !b.dir && decide (streamCount (qOf c i) < b.remain.toNat)

/-- Bound to a store stream (R257). -/
def storeBound (c : Ctx) (i : BitVec 2) : Bool :=
  let b := bindOf c i
  b.bound && b.dir && (decide (b.remain ≠ 0) || decide (0 < streamCount (qOf c i)))

/-- The address of the element `n` places after the next one. -/
def streamAddr (b : Binding) (n : Int) : Word := b.next + BitVec.ofInt 64 (n * b.stride.toInt)

/-- A sequencer's load streams drop what they have read ahead, to read it again (R256). Where a binding has ended, its
elements keep their places among the later pushes and are read again there. -/
def discardAhead (c : Ctx) (sd : Side) : Ctx :=
  [0, 1, 2, 3].foldl (fun c (i : Nat) =>
    let j := BitVec.ofNat 2 i
    let b := bindOf c j
    if b.dir || decide (b.own ≠ sd) then c
    else if b.bound then setQ c j ((qOf c j).filter (fun e => !e.stream))
    else setQ c j ((qOf c j).map (fun e => { e with stale := e.stream }))) c

/-- The discard at an acquire of a sequencer, with what its streams have asked the host and other packages for. -/
def discardStreams (s : State) (key : Nat) (sd : Side) : State :=
  let c := ctxAt s key
  let ours : Asker → Bool
    | .stream k q => k = key && (bindOf c (BitVec.ofNat 2 q)).own = sd
    | _ => false
  modCtx { s with asks := s.asks.filter (fun e => !ours e.2.who), answers := s.answers.filter (fun e => !ours e.2.ask.who) }
    key (fun c => discardAhead c sd)

/-- A fence of an acquire (R217, R223): engine commands wait for the stores that happen before it, those of its core. -/
def acqFence (cut : Nat) : FenceRec := ⟨3, 4, 0, cut⟩

/-- AN ACQUIRE of the sequencer at work by a counter: what its streams and its later loads had read ahead is discarded (R220,
R256), and its later engine commands come after the stores on its core so far (R223). -/
def acquired (s : State) : State :=
  let stores := coreStoresBelow s (curCore s) s.ids
  modSeq (discardStreams s (curKey s) s.cur.side) (fun q =>
    { q with ahead := [], late := [], acq := s.ids,
             fences := if stores then q.fences.filter (fun f => f ≠ acqFence f.cut) ++ [acqFence s.ids] else q.fences })

def popsOf (ops : List Opnd) (sp : Spec) : Nat := ops.countP (fun o => isSource o.cls && o.sp = sp)
def pushesOf (ops : List Opnd) (sp : Spec) : Nat := ops.countP (fun o => isPush o.cls && o.sp = sp)

/-- A queue of capacity `cap` that holds `n` entries can serve the instruction (R53). -/
def queueServes (cap n pops pushes : Nat) : Bool := decide (pops ≤ n) && decide (n + pushes ≤ cap + pops)

def qReady (c : Ctx) (ops : List Opnd) (sp : Spec) : Bool :=
  match sp with
  | .q i => queueServes 32 (qOf c i).length (popsOf ops sp) (pushesOf ops sp) &&
      !((qOf c i).take (popsOf ops sp)).any QEnt.stale
  | .w i => queueServes 4 (wOf c i).length (popsOf ops sp) (pushesOf ops sp)
  | _ => true

/-- The specifier checks of R58 step 3, position by position, with those of R256 and R257 on bound queues. -/
def checkSpecs (s : State) (c : Ctx) : List Opnd → Res Unit
  | [] => .ok ()
  | o :: r =>
    if !classOk s.cur.side o.cls o.sp then illegalOperand s o.pos
    else
      let bad : Bool := match o.sp with
        | .q i => (isPush o.cls && loadBound c i) || (isSource o.cls && storeBound c i)
        | _ => false
      if bad then illegalOperand s o.pos else checkSpecs s c r

def answerOf (s : State) (who : Asker) (addr : Nat) : Option Answer :=
  (s.answers.find? (fun e => e.2.ask.who = who && e.2.ask.addr = addr)).map Prod.snd

/-- The answer that has come for the executing sequencer at an address. -/
def answerFor (s : State) (addr : Nat) : Option Answer := answerOf s (curAsker s) addr

/-- info of LINK_FAILURE for a port (R375): 0x0020 the host port, 0x0030 + port a fabric port. -/
def portInfo (link : Nat) : BitVec 16 := if link = 0 then 0x0020 else BitVec.ofNat 16 (0x0030 + (link - 1))

/-- What the read of a load stream's element would fault with (R256, R360); its walk is the stream's, an access of the owner
(R217, R227). An answer without bytes stands for an access
that timed out (R375). -/
def elementFault (s : State) (q : BitVec 2) (va : Word) : Res Unit := do
  let who : Asker := .stream (curKey s) q.toNat
  let bad (line : Nat) : Res Unit := .error (.fault (uncorrectable va.toNat line 0))
  let came (a : Answer) (line : Nat) : Res Unit :=
    if a.denied then .error (.fault (accessDenied va.toNat 0))
    else if a.ps then bad line
    else if a.bytes.isEmpty then faultWith 0x12 0 0 (portInfo a.ask.link)
    else .ok ()
  let (s1, h) ← accessFor s who va 0 needR
  afterWalk (walkedFor who va.toNat 0 needR) (match h.tgt with
    | .device pa | .own pa | .scratch pa => if poisoned s1 pa then bad (lineOf pa) else .ok ()
    | .host pa =>
      match answerOf s who (128 * lineOf pa) with
      | some a => came a (lineOf pa)
      | none => .ok ()
    | .fabric node off =>
      match answerOf s who (0x4000000000000 + node * 2 ^ 39 + off) with
      | some a => came a (lineOf (0x4000000000000 + node * 2 ^ 39 + off))
      | none => .ok ()
    | .nothing => .ok ())

/-- A stream fault raised against this instruction: the next element of a load stream it has to pop (R256), or the
element it would push to a store stream (R257). Both accesses, and their walks, are the stream's owner's. -/
def streamFaults (s : State) (c : Ctx) : List Opnd → List Opnd → Res Unit
  | _, [] => .ok ()
  | ops, o :: r =>
    match o.sp with
    | .q i =>
      let b := bindOf c i
      let who : Asker := .stream (curKey s) i.toNat
      let read (va : Word) : Res Unit := do
        elementFault s i va
        afterWalk (walkedFor who va.toNat 0 needR) (streamFaults s c ops r)
      if isSource o.cls && loadBound c i && decide ((qOf c i).length < popsOf ops o.sp) then
        read (streamAddr b (streamCount (qOf c i)))
      else if isSource o.cls && ((qOf c i).take (popsOf ops o.sp)).any QEnt.stale then
        read ((((qOf c i).find? QEnt.stale).map QEnt.va).getD 0)
      else if isPush o.cls && b.bound && b.dir && b.remain ≠ 0 then do
        let _ ← accessFor s who b.next 0 needW
        afterWalk (walkedFor who b.next.toNat 0 needW) (streamFaults s c ops r)
      else streamFaults s c ops r
    | _ => streamFaults s c ops r

/-- The first x source that is live and not in the register cache (R84). -/
def firstMiss (q : Seq) : List Opnd → Option (BitVec 5)
  | [] => none
  | o :: r =>
    match o.sp with
    | .x _ i =>
      if isSource o.cls && i ≠ 0 && q.live.getLsbD i.toNat && !q.rc.contains i then some i else firstMiss q r
    | _ => firstMiss q r

/-! ### Reading sources -/

/-- The value of a scalar source; a q source is its `n`-th oldest entry. -/
def srcValue (c : Ctx) (q : Seq) (n : Nat) : Spec → Word
  | .x _ i => xRead q i
  | .o i => q.o[i.toNat]'i.isLt
  | .l i => q.l[i.toNat]'i.isLt
  | .q i => (((qOf c i)[n]?).map QEnt.val).getD 0
  | .k i => kRead q i
  | .imm v => v.signExtend 64
  | _ => 0

/-- The values of the operands in order; the `n`-th pop of one queue takes its `n`-th entry. -/
def srcValues (c : Ctx) (q : Seq) (before : List Opnd) : List Opnd → List Word
  | [] => []
  | o :: r =>
    (if isSource o.cls then srcValue c q (popsOf before o.sp) o.sp else 0) :: srcValues c q (before ++ [o]) r

/-- The oldest `n` entries of a queue leave it; a load stream's own advance its binding, an ended one too, whose elements
a swap may still discard (R258). -/
def popQ (c : Ctx) (i : BitVec 2) (n : Nat) : Ctx :=
  let l := qOf c i
  let b := bindOf c i
  let k := if b.dir then 0 else streamCount (l.take n)
  let b1 := { b with next := streamAddr b k, remain := b.remain - BitVec.ofNat 32 k
                     bound := b.bound && decide (k < b.remain.toNat) }
  let c1 := setQ c i (l.drop n)
  if k = 0 then c1 else setBind c1 i b1

def popQueues (c : Ctx) (ops : List Opnd) : Ctx :=
  let c1 := [0, 1, 2, 3].foldl (fun c (i : Nat) =>
    let j := BitVec.ofNat 2 i
    let n := popsOf ops (.q j)
    if n = 0 then c else popQ c j n) c
  [0, 1].foldl (fun c (i : Nat) =>
    let j := BitVec.ofNat 1 i
    let n := popsOf ops (.w j)
    if n = 0 then c else setW c j ((wOf c j).drop n)) c1

/-- A queue is popped: an acquire of the sequencer (Table 10.2). -/
def popsAny (ops : List Opnd) : Bool :=
  ops.any (fun o => isSource o.cls && (match o.sp with | .q _ => true | .w _ => true | _ => false))

/-- Sources are read: the registers become the most recently used, marked ones die (R52, R85). A pop is an acquire at the
operation number `cut`: past it no load's read stands that was made ahead of it (R222). -/
def touchSources (cut : Nat) (q : Seq) (ops : List Opnd) : Seq :=
  let q1 := ops.foldl (fun q o => match o.sp with
    | .x _ i => if isSource o.cls && q.live.getLsbD i.toNat then rcTouch q i else q
    | _ => q) q
  let q2 := ops.foldl (fun q o => match o.sp with
    | .x true i => if isSource o.cls then xKill q i else q
    | _ => q) q1
  if popsAny ops then { q2 with ahead := [], acq := cut } else q2

/-- A queue takes a push as the next element of a store stream; one whose stream has had its last element pushed takes an
ordinary entry (R257). -/
def takesElement (c : Ctx) (i : BitVec 2) : Bool := (bindOf c i).bound && (bindOf c i).dir && (bindOf c i).remain ≠ 0

/-- The stream stores among the pushes may be issued: each is a store of the stream's owner, which no fence of the owner holds
back and which is not one too many in flight (R206, R257, R341). -/
def streamPushesGo (s : State) (c : Ctx) (ops : List Opnd) : Bool :=
  ops.all (fun o => match o.sp with
    | .q i =>
      let own := (bindOf c i).own
      !(isPush o.cls && takesElement c i && (fenceHolds s (curKey s) own (curCore s) .s none ||
        decide (4096 ≤ outstanding s (curKey s) own .s)))
    | _ => true)

/-- A push that another sequencer may pop: its release waits for the stores the sequencer's own streams hold (R222,
R257). -/
def releasesByPush (c : Ctx) (ops : List Opnd) : Bool :=
  ops.any (fun o => isPush o.cls && (match o.sp with
    | .q i => !takesElement c i
    | .w _ => true
    | _ => false))

/-- The pushes of an instruction may go: the stores among them may be issued, and where it releases, the release has come
about (R222). -/
def pushesGo (s : State) (c : Ctx) (ops : List Opnd) : Bool :=
  streamPushesGo s c ops && !(releasesByPush c ops && streamStores c s.cur.side s.ids)

/-- THE OPERAND GATE. The specifier checks, the checks of the word's other fields (R58 step 3), then the waits of the
register cache and of the queues; then the values of the operands (0 for one that is no scalar source) and the state
with every pop and last-use mark done. -/
def gateWith (s : State) (ops : List Opnd) (fields : Res Unit) : Res (State × List Word) := do
  let c := curCtx s
  let q := curSeq s
  checkSpecs s c ops
  fields
  streamFaults s c ops ops
  if !pushesGo s c ops then stallIn s .none
  else if ops.all (fun o => qReady c ops o.sp) then
    match firstMiss q ops with
    | some i =>
      .error (.stall (addPm (modSlot s s.cur.slot (fun l => { l with fill := some (s.cur.side, i) })) s.cur.slot 3 1))
    | none =>
      pure (modCur s (fun c => setSeq (popQueues c ops) s.cur.side (touchSources s.ids (seqOf c s.cur.side) ops)),
        srcValues c q [] ops)
  else stallIn s .queue

/-- The gate of an instruction without field checks. -/
def gate (s : State) (ops : List Opnd) : Res (State × List Word) := gateWith s ops (.ok ())

def valAt (v : List Word) (i : Nat) : Word := v.getD i 0

/-- A v source, or the w entry an operand pops; `before` are the operands in front of it. -/
def vregOperand (c : Ctx) (before : List Opnd) (sp : Spec) : VReg :=
  match sp with
  | .v i => c.v[i.toNat]'i.isLt
  | .w i => ((wOf c i)[popsOf before sp]?).getD ⟨.none, []⟩
  | _ => ⟨.none, []⟩

/-! ### Writing a scalar destination -/

/-- Where a push's element goes, the queue being a store stream's: the state its walk, the owner's, leaves, and the physical
address, the leaf and whether it is the own node's memory (R257). -/
def pushTarget (s : State) (i : BitVec 2) : State × Nat × Word × Bool :=
  if takesElement (curCtx s) i then
    match checkFor s (.stream (curKey s) i.toNat) (bindOf (curCtx s) i).next.toNat 0 needW with
    | (t, .ok h) => (t, targetPa h.tgt, h.leaf, h.tgt.isOwn)
    | (t, _) => (t, 0, 0, false)
  else (s, 0, 0, false)

/-- A push by an instruction (R52); on a store stream it is the next element (R257), which goes to `tgt`. -/
def pushQ (s : State) (tgt : Nat × Word × Bool) (c : Ctx) (i : BitVec 2) (v : Word) : Ctx :=
  let b := bindOf c i
  let st : Bool := takesElement c i
  let c1 := setQ c i (qOf c i ++ [⟨v, st, s.ids, tgt.1, tgt.2.1, b.next, (curSeq s).pc, tgt.2.2, false⟩])
  if st then setBind c1 i { b with next := streamAddr b 1, remain := b.remain - 1 } else c1

/-- A scalar result: written to x, o or q, and shifted into the last-result file, with 0 for a write to x0 (R73). -/
def writeDst (s : State) (d : Spec) (v : Word) : State :=
  match d with
  | .x _ i => modSeq s (fun q => lShift (xWrite q i v) (if i = 0 then 0 else v))
  | .o i => modSeq s (fun q => lShift { q with o := q.o.set i.toNat v i.isLt } v)
  | .q i =>
    let r := pushTarget s i
    let s1 := modCur r.1 (fun c =>
      let c1 := pushQ s r.2 c i v
      setSeq c1 s.cur.side (lShift (seqOf c1 s.cur.side) v))
    { s1 with ids := s1.ids + 1 }
  | _ => s

/-- Operands by position. -/
def opD (c : OpClass) (sp : Spec) : Opnd := ⟨1, c, sp⟩
def opA (c : OpClass) (sp : Spec) : Opnd := ⟨2, c, sp⟩
def opB (c : OpClass) (sp : Spec) : Opnd := ⟨3, c, sp⟩
def opC (c : OpClass) (sp : Spec) : Opnd := ⟨4, c, sp⟩

end Sys2Proof.Machine
end

