-- ==== Sys2Proof/Machine/Mem.lean ====
section
/-!
DEFINITION. Loads, stores and read-modify-writes of the executing sequencer, wherever its address is served (R170, R172,
R176 to R186, R234 to R249).
-/

namespace Sys2Proof.Machine

/-- An access of a class may issue: no fence holds it back (R206) and the sequencer has no stream store of its own
outstanding (R178, R257), and it has fewer than 4,096 operations of the class in flight (R341); else the sequencer stalls
with no effect. -/
def mayAccess (s : State) (c : AClass) : Res Unit :=
  if fenceBlocks s c || streamStores (curCtx s) s.cur.side s.ids ||
      decide (4096 ≤ outstanding s (curKey s) s.cur.side c) then stallIn s .none else .ok ()

def dropAnswers (s : State) : State :=
  { s with answers := s.answers.filter (fun e => e.2.ask.who ≠ curAsker s) }

/-- Asks once and waits. -/
def askAndStall {α : Type} (code addr extra link : Nat) (payload : List Byte) : Res α :=
  .error (.wait (fun t =>
    if hasAsk t (fun a => a.who = curAsker t && a.addr = addr && a.code = code) then t
    else sendAsk t (curAsker t) code addr extra link (curPart t) payload))

/-- A DEVICE LINE MADE READY at its home for an access that focuses it: focused, and taken back from a core or engine that
owns it; or the access waits, for what `homeHolds` says. -/
def readyLine (s : State) (line : Nat) (write : Bool) : Res State :=
  match homeHolds s (curAsker s) (curPart s) (curCore s) line write with
  | some g => .error (.wait g)
  | none => .ok (homeLine s line (some s.cur.slot))

/-- MEMORY_UNCORRECTABLE of an access; its walk, and the focus it caused, have come about. -/
def readFault {α : Type} (va i : Nat) (n : Need) (line : Nat) : Res α :=
  .error (.walkFault (uncorrectable va line i) (fun t => focus (walked va i n t) line (some t.cur.slot)))

/-- The executing core's DISJ copy holds all of these bytes under its mask (R246). -/
def ownDisj (s : State) (pa n : Nat) : Option Partial :=
  let line := lineOf pa
  if (dirAt s line).st = .gathering && !s.notices.contains (curCore s, line) then
    (tabGet s.partials (partialKey (curCore s) line)).bind (fun p =>
      if p.tag = 0 && (List.range n).all (fun i => p.touched.getLsbD (pa % 128 + i)) then some p else none)
  else none

/-- A counter add of the sequencer to the bytes is on its way: its value is not known before it performs (R219). -/
def ownAddOver (s : State) (pa n : Nat) : Bool :=
  let c := curCtx s
  s.wts.any (fun e => e.2.ctx = curKey s && e.2.task = c.task && e.2.iter = c.iter && e.2.side = s.cur.side &&
    e.2.kind ≠ .store && e.2.covers pa n)

/-- What the sequencer read of a byte range ahead of its load (R220). -/
def aheadOf (s : State) (pa n : Nat) : Option (List Byte) :=
  if s.cur.strm.isSome then none
  else ((curSeq s).ahead.find? (fun e => e.1 ≤ pa && pa + n ≤ e.1 + e.2.length)).map (fun e => listSlice e.2 (pa - e.1) n)

/-- A read made ahead has a byte of a range. -/
def aheadOver (pa n : Nat) (e : Nat × List Byte) : Bool := decide (e.1 < pa + n) && decide (pa < e.1 + e.2.length)

/-- A load that may still perform reads a byte of a range. -/
def lateOver (pa n : Nat) (e : LateLoad) : Bool := decide (e.pa < pa + n) && decide (pa < e.pa + e.n)

/-- An access of the sequencer to bytes comes after its loads of them, which have performed (R178, R219). -/
def settleLate (s : State) (pa n : Nat) : State :=
  if (curSeq s).late.any (lateOver pa n) then
    modSeq s (fun q => { q with late := q.late.filter (fun e => !lateOver pa n e) })
  else s

/-- An access of the sequencer to bytes: the reads made ahead of them are dropped, and the loads before it have performed. -/
def dropAhead (s : State) (pa n : Nat) : State :=
  let s1 := settleLate s pa n
  if (curSeq s1).ahead.any (aheadOver pa n) then
    modSeq s1 (fun q => { q with ahead := q.ahead.filter (fun e => !aheadOver pa n e) })
  else s1

/-- A load of element `i` is noted among the turn's, for it may perform again after the accesses behind it (R220). -/
def noteLoad (s : State) (i pa n : Nat) : State := { s with cur := { s.cur with reads := s.cur.reads ++ [(i, pa, n)] } }

/-- The bytes a load of element `i` takes: those read ahead of it, or those of now. -/
def served (s : State) (i pa n : Nat) (b : List Byte) : State × List Byte :=
  (if s.cur.strm.isSome then settleLate s pa n else noteLoad (dropAhead s pa n) i pa n, (aheadOf s pa n).getD b)

/-- The cache a load or store goes through: a vector access the pool cache, any other the L1 (R170). -/
def cacheFor (s : State) (vec : Bool) : Nat := if vec then poolCache (curCore s) else curCore s

/-- The cache serves the line itself. -/
def cacheHit (s : State) (cache line : Nat) : Bool := (copiesOf s line).contains cache && !isFaceted (dirAt s line)

/-- The home's slice serves a line, and takes it where the page says so (R172). -/
def sliceServes (s : State) (h : Hit) (line : Nat) : State :=
  useSlice s line (if leafCL h.leaf = 2 then none else some h.ep) (leafCMP h.leaf)

/-- A cache takes its copy of a device line. -/
def takeCopy (s : State) (h : Hit) (line cache : Nat) : State := recordCopy (allocLine s cache line h.ep false) line cache

/-- A load of a device line that its cache does not serve: the home's slice and the cache allocate as the page and the
instruction say (R172), and the miss is counted (R351). That a load of a page whose lines the L1 or the pool cache does not
take counts as no miss of it is the model's choice (log entry 110). -/
def fillFrom (s : State) (h : Hit) (line : Nat) (vec : Bool) : State :=
  let cache := cacheFor s vec
  let s1 := noteRead (sliceServes s h line) line cache
  if leafCL h.leaf = 0 then curPm (takeCopy s1 h line cache) (if vec then 5 else 4) 1 else s1

/-- A load's data (R170, R172, R178). `vec` chooses the pool cache. -/
def loadBytes (s : State) (h : Hit) (va : Word) (i n : Nat) (vec : Bool) : Res (State × List Byte) :=
  let bad : Nat → Res (State × List Byte) := readFault va.toNat i needR
  let denied : Res (State × List Byte) := .error (.walkFault (accessDenied va.toNat i) (walked va.toNat i needR))
  match h.tgt with
  | .device pa =>
    let line := lineOf pa
    if ownAddOver s pa n then .error (.wait id)
    else
      match (if vec then none else ownDisj s pa n) with
      | some p =>
        if p.bad &&& maskOf (pa % 128) n ≠ 0 then
          .error (.walkFault (uncorrectable va.toNat line i) (walked va.toNat i needR))
        else
          .ok (served (touchLine s (curCore s) line) i pa n
            (overlay (coreWts s (curCore s)) pa (listSlice p.bytes (pa % 128) n)))
      | none =>
        if cacheHit s (cacheFor s vec) line then
          if poisoned s pa then bad line
          else
            .ok (served (noteRead (touchLine s (cacheFor s vec) line) line (cacheFor s vec)) i pa n
              (coreRead s (curCore s) pa n))
        else do
          let s1 ← readyLine s line false
          if poisoned s1 pa then bad line
          else pure (served (fillFrom s1 h line vec) i pa n (coreRead s1 (curCore s) pa n))
  | .own pa =>
    if ownAddOver s pa n then .error (.wait id)
    else do
      let s1 ← readyLine s (lineOf pa) false
      if poisoned s1 pa then bad (lineOf pa)
      else pure (served (noteRead s1 (lineOf pa) engineAgent) i pa n (coreRead s1 (curCore s) pa n))
  | .scratch pa => if poisoned s pa then bad (lineOf pa) else .ok (served s i pa n (memRead s.mem pa n))
  | .host pa =>
    let line := lineOf pa
    if ownAddOver s pa n then .error (.wait id)
    else
      match (hostLineAt s line).bind (fun hl => if hl.holders.contains (cacheFor s vec) then some hl else none) with
      | some hl =>
        if hl.ps then bad line
        else
          .ok (served (touchLine s (cacheFor s vec) line) i pa n
            (overlay (coreWts s (curCore s)) pa (listSlice hl.bytes (pa % 128) n)))
      | none =>
        match answerFor s (128 * line) with
        | some a =>
          if a.denied then denied
          else if a.ps then bad line
          else
            .ok (if leafCL h.leaf = 0 then curPm s (if vec then 5 else 4) 1 else s, listSlice a.bytes (pa % 128) n)
        | none =>
          if cutOff s (curCore s) h.tgt || coreWtOver s (curCore s) pa n then .error (.wait id)
          else
            askAndStall (if leafCL h.leaf = 0 then 0x01 else 0x03) (128 * line) (cacheFor s vec + 4096 * h.ep) 0 []
  | .fabric node _ =>
    let addr := targetPa h.tgt
    match answerFor s addr with
    | some a =>
      if a.denied then denied
      else if a.ps then bad (lineOf addr)
      else .ok (s, listSlice a.bytes 0 n)
    | none =>
      if cutOff s (curCore s) h.tgt || coreWtOver s (curCore s) addr n then .error (.wait id)
      else askAndStall 0x01 addr n (routeOf s node) []
  | .nothing => denied

/-- The access allocates at its instruction's own priority, if it names one (R180). -/
def Hit.keptAt (h : Hit) (ep : Option Nat) : Hit := { h with ep := ep.getD h.ep }

/-- The write policy under which a write acts on the copies of its line (R235); the own node's memory has update. -/
def Hit.policy (h : Hit) : WPolicy := if h.tgt.isOwn then .update else leafWP h.leaf

/-- The write-through an access of the executing sequencer makes. -/
def curWt (s : State) (cls : AClass) (h : Hit) : Wt :=
  let dev : Bool := match h.tgt with | .device _ => true | _ => false
  { kind := .store, ctx := curKey s, task := (curCtx s).task, iter := (curCtx s).iter, slot := s.cur.slot,
    side := s.cur.side, core := curCore s, part := curPart s, cls := cls, cmd := none, pa := targetPa h.tgt, bytes := [],
    pc := (curSeq s).pc, va := BitVec.ofNat 64 h.va, elem := h.elem,
    policy := h.policy,
    l1 := dev && decide (leafCL h.leaf = 0) && decide (cls = AClass.s), phase := .toHome, strm := none,
    alloc := if dev && decide (leafCL h.leaf ≠ 2) then some (h.ep, leafCMP h.leaf) else none, op := s.cur.op,
    own := h.tgt.isOwn }

/-- A store performed in the core's own DISJ copy (R246); bytes that held an error are good again. -/
def disjStore (s : State) (core pa : Nat) (p : Partial) (b : List Byte) : State :=
  { s with partials := tabPut s.partials (partialKey core (lineOf pa))
             { p with bytes := listSet p.bytes (pa % 128) b, bad := p.bad &&& ~~~maskOf (pa % 128) b.length } }

/-- The DISJ copy that takes a scalar store of the core: none of its stores to the bytes is still on its way. -/
def disjTakes (s : State) (t : Target) (cls : AClass) (n : Nat) : Option Partial :=
  match t with
  | .device pa => if decide (cls = AClass.s) && !coreWtOver s (curCore s) pa n then ownDisj s pa n else none
  | _ => none

/-- A vector store to a line that the pool cache does not hold counts as a miss (R351). -/
def noteStore (s : State) (h : Hit) (cls : AClass) : State :=
  match h.tgt with
  | .device pa | .host pa =>
    let cache := cacheFor s (decide (cls = .v))
    if cacheHolds s cache (lineOf pa) then touchLine s cache (lineOf pa)
    else if decide (cls = .v) && decide (leafCL h.leaf = 0) then curPm s 5 1 else s
  | _ => s

/-- A store's data leaves the sequencer (R235, R246): into the scratchpad at once, into the core's own DISJ copy, or
onto its way to its home. -/
def storeBytes (s : State) (h : Hit) (cls : AClass) (b : List Byte) : State :=
  let s := dropAhead s (targetPa h.tgt) b.length
  match h.tgt with
  | .scratch pa => homeWrite s pa b
  | .nothing => s
  | t =>
    let pa := targetPa t
    match disjTakes s t cls b.length with
    | some p => disjStore s (curCore s) pa p b
    | none => noteStore (issueWts s (curWt s cls h) (splitLines pa b (b.length / 128 + 2))) h cls

/-- A read-modify-write of the core's own sequencers may act on bytes: none of its writes to them is on its way. -/
def noOwnStores (s : State) (pa n : Nat) : Res Unit :=
  if coreWtOver s (curCore s) pa n then .error (.wait id) else .ok ()

/-- The atomic codes of AHT and BFT payloads (R181, R338). -/
def atomicCode : AtomicOp → Nat
  | .swap => 0 | .cas => 1 | .add => 2 | .and => 3 | .or => 4 | .xor => 5 | .min => 6 | .max => 7 | .minu => 8
  | .maxu => 9 | .fadd => 10 | .counterAdd => 11

/-- `AmoOp` (Table 8.3) on the low 8 × `n` bits: the new value, if one is written. -/
def amoOp (op : AtomicOp) (n : Nat) (old b c : Word) : Option Word :=
  let lo : Word → Word := fun w => if n = 4 then w &&& 0xFFFFFFFF#64 else w
  let sg : Word → Int := fun w => if n = 4 then (w.truncate 32 : BitVec 32).toInt else w.toInt
  let un : Word → Nat := fun w => (lo w).toNat
  match op with
  | .swap => some (lo b)
  | .cas => if lo old = lo c then some (lo b) else none
  | .add => some (lo (old + b))
  | .and => some (lo (old &&& b))
  | .or => some (lo (old ||| b))
  | .xor => some (lo (old ^^^ b))
  | .min => some (if sg b < sg old then lo b else lo old)
  | .max => some (if sg old < sg b then lo b else lo old)
  | .minu => some (if un b < un old then lo b else lo old)
  | .maxu => some (if un old < un b then lo b else lo old)
  | .fadd => some (f32Of (fvAdd (f32Val old) (f32Val b)))
  | .counterAdd =>
    if 0 ≤ b.toInt && decide (old.toNat + b.toNat < 2 ^ 64) then some (old + b) else none

/-- A read-modify-write of one word by the executing sequencer, as one access at the point of Table 8.4 (R182): the old
value, and the state with `f old` written, if there is one. `b` and `c` go into the message where the home is the
host's or another package's. -/
def rmw (s : State) (h : Hit) (va : Word) (n : Nat) (op : AtomicOp) (b c : Word) (f : Word → Option Word) :
    Res (State × Word) :=
  match h.tgt with
  | .scratch pa => do
    noOwnStores s pa n
    done s pa id
  | .device pa => do
    noOwnStores s pa n
    let s1 ← readyLine s (lineOf pa) true
    done s1 pa (fun t => atomicLine t (lineOf pa))
  | .own pa => do
    noOwnStores s (targetPa h.tgt) n
    let s1 ← readyLine s (lineOf pa) true
    done s1 pa (fun t => noteRead t (lineOf pa) engineAgent)
  | .host pa =>
    if leafCL h.leaf = 0 then
      match (answerFor s (128 * lineOf pa)).filter (fun a => a.ask.code = 0x02) with
      | some a =>
        if a.denied then denied
        else if a.ps then readFault va.toNat 0 needRW (lineOf pa)
        else
          let old := BitVec.ofNat 64 (leNat (listSlice a.bytes (pa % 128) n))
          let bytes := match f old with
            | none => a.bytes
            | some new => listSet a.bytes (pa % 128) (leBytes n new.toNat)
          pure (returnLine (dropHostLine (dropAhead s pa n) (lineOf pa)) (curPart s) (lineOf pa) bytes false, old)
      | none =>
        if cutOff s (curCore s) h.tgt || hostCopiesCut s (lineOf pa) || coreWtOver s (curCore s) pa n then
          .error (.wait id)
        else askAndStall 0x02 (128 * lineOf pa) (curCore s) 0 []
    else remote pa 0x0A 0
  | .fabric node _ => remote (targetPa h.tgt) 0x03 (routeOf s node)
  | .nothing => denied
where
  /-- the host or the other package refuses it -/
  denied : Res (State × Word) := .error (.walkFault (accessDenied va.toNat 0) (walked va.toNat 0 needRW))
  /-- the word of this package read and written, and what becomes of its line -/
  done (s1 : State) (pa : Nat) (after : State → State) : Res (State × Word) :=
    if poisoned s1 pa then readFault va.toNat 0 needRW (lineOf pa)
    else
      let old := BitVec.ofNat 64 (memNat s1.mem pa n)
      let s2 := dropAhead s1 pa n
      match f old with
      | none => .ok (after s2, old)
      | some new => .ok (after (homeWrite s2 pa (leBytes n new.toNat)), old)
  /-- what becomes of a device line: on an L1+L2 page the L1 takes it in O, and keeps it in S (Table 11.2); else the home
  executes the atomic -/
  atomicLine (s1 : State) (line : Nat) : State :=
    let core := curCore s
    let s2 := sliceServes s1 h line
    if leafCL h.leaf = 0 then
      let s3 := dropCopies s2 line [core]
      takeCopy (setDir s3 line { dirAt s3 line with writers := [] }) h line core
    else afterWrite (noteRead s2 line core) line (leafWP h.leaf) []
  /-- the home agent executes it: Atomic, and AtomicRsp or Rsp with the old value -/
  remote (addr code link : Nat) : Res (State × Word) :=
    match answerFor s addr with
    | some a =>
      if a.denied then denied
      else if a.ps then readFault va.toNat 0 needRW (lineOf addr)
      else .ok (dropAhead s addr n, BitVec.ofNat 64 (leNat (listSlice a.bytes 0 n)))
    | none =>
      if cutOff s (curCore s) h.tgt || (link = 0 && hostCopiesCut s (lineOf addr)) || coreWtOver s (curCore s) addr n then
        .error (.wait id)
      else
        .error (.wait (fun t =>
          if hasAsk t (fun a => a.who = curAsker t && a.addr = addr && a.code = code) then t
          else sendAsk (dropAhead (if link = 0 then dropHostLine t (lineOf addr) else t) addr n) (curAsker t) code addr
            (atomicCode op) link
            (curPart t) (leBytes 1 (atomicCode op) ++ leBytes 1 n ++ leBytes 8 b.toNat ++ leBytes 8 c.toNat)))

/-- Issue number of an operation of the executing sequencer. -/
def bumpIds (s : State) : State := { s with ids := s.ids + 1 }

/-! ### The device's own accesses to blocks and tables (R8, R86, R91, R164, R249) -/

/-- A failed link lies on the way of an access of the device, made from a core, to a line, or to a copy or owner of it that it has
to reach (R8, R378). -/
def ownCut (s : State) (core line : Nat) (write : Bool) : Bool :=
  !s.edgeDown.isEmpty && (lineCut s core line || copyCut s line write)

/-- Some line of a byte range is cut off from a core. -/
def rangeCut (s : State) (core lo n : Nat) : Bool := !s.edgeDown.isEmpty && (linesIn lo n).any (lineCut s core)

/-- The first line of a byte range whose bank is in a wave (R164). -/
def rangeInWave (s : State) (lo n : Nat) : Option Nat :=
  if s.dies.any (fun e => e.2.wave.isSome) then (linesIn lo n).find? (fun l => inWave s (bankOfLine l)) else none

/-- A byte range waits: for a failed link on the way (R8), unless the lines behind it are passed over (`skip`), behind earlier
writes of the device, or for a wave on one of its banks (R164). -/
def rangeWaits (skip : Bool) (s : State) (core lo n : Nat) : Bool :=
  (!skip && rangeCut s core lo n) ||
    s.blockq.any (fun e => decide (lo < e.pa + e.bytes.length) && decide (e.pa < lo + n) &&
      !(skip && lineCut s core (lineOf e.pa))) ||
    (rangeInWave s lo n).isSome

/-- The directory's lines with a byte in a range. -/
def dirLines (s : State) (lo n : Nat) : List Nat :=
  (s.dir.map Prod.fst).filter (fun l => decide (lo < 128 * l + 128) && decide (128 * l < lo + n))

/-- One line made ready for the device's own access: focused, taken back from its owner, and for a write given up by the host. A
line cut off, and one whose bank runs a wave, is left as it is. -/
def readyOne (skip : Bool) (part core : Nat) (write : Bool) (r : State × Bool) (line : Nat) : State × Bool :=
  if ownCut r.1 core line write then (r.1, r.2 && skip)
  else if inWave r.1 (bankOfLine line) then (r.1, false)
  else
    let s1 := recallLocal (focus r.1 line none) line
    if hostOwns s1 line || (write && hostShares s1 line) then (askHost s1 .home line part, false) else (s1, r.2)

/-- A byte range made ready for the device: it is once every line is and nothing else waits for it. -/
def readyLines (skip : Bool) (part core : Nat) (write : Bool) (lo n : Nat) (r : State × Bool) : State × Bool :=
  let x := (dirLines r.1 lo n).foldl (readyOne skip part core write) r
  (x.1, x.2 && !rangeWaits skip x.1 core lo n)

/-- The same for a step that comes again where the range is not ready; what waits for a wave stands in the queue of the bank
(R164). -/
def readyRange (skip : Bool) (part core : Nat) (write : Bool) (lo n : Nat) (r : State × Bool) : State × Bool :=
  let x := readyLines skip part core write lo n r
  (match rangeInWave x.1 lo n with | some l => waitBank x.1 l .home 0 | none => x.1, x.2)

/-- A line of a context block is used through the core's L1, under the attribute L1+L2 with write policy invalidate that its pages
carry (R86): a read takes a copy, a write leaves only the core's own. The lines are allocated at priority 0 (log entry 21). -/
def blockLine (core : Nat) (write : Bool) (s : State) (line : Nat) : State :=
  if !write && cacheHit s core line then touchLine s core line
  else
    let s1 := useSlice (noteChannel s line) line (some 0) false
    if write then afterWrite (touchLine s1 core line) line .invalidate [core]
    else recordCopy (allocLine s1 core line 0 false) line core

/-- The lines of byte ranges, each once. -/
def linesOf (l : List (Nat × Nat)) : List Nat := (l.flatMap (fun r => linesIn r.1 r.2)).dedup

/-- A write of the device inside one line of a context block: made at once, or queued until its line is ready, in the order of
the writes. -/
def blockPut (s : State) (w : BlockWrite) : State :=
  let r := readyLines false w.part w.core true w.pa w.bytes.length (s, true)
  if r.2 then blockLine w.core true (homeWrite r.1 w.pa w.bytes) (lineOf w.pa) else { r.1 with blockq := r.1.blockq ++ [w] }

def blockWrite (s : State) (part core pa : Nat) (b : List Byte) : State :=
  (splitLines pa b (b.length / 128 + 2)).foldl (fun t w => blockPut t ⟨part, core, w.1, w.2⟩) s

/-- The writes that wait are tried again, in their order. -/
def flushBlocks (s : State) : State := s.blockq.foldl blockPut { s with blockq := [] }

end Sys2Proof.Machine
end

