-- ==== Sys2Proof/Machine/Scalar.lean ====
section
/-!
DEFINITION. Scalar integer and FP32 instructions, branches, loops, branch outcomes and system instructions (R92 to R117).
-/

namespace Sys2Proof.Machine

abbrev Out := Host.Outcome State Fault Refusal

/-- An instruction that computes one scalar result from its sources: gate, write, retire (R92). -/
def scalarOp (s : State) (d : Spec) (src : List Opnd) (f : List Word → Word) : Out :=
  finish s (do
    let (s1, v) ← gate s (opD .sdst d :: src)
    pure (retire (writeDst s1 d (f v))))

/-- Two scalar sources A and B. -/
def scalar2 (s : State) (d a b : Spec) (f : Word → Word → Word) : Out :=
  scalarOp s d [opA .ssrc a, opB .ssrc b] (fun v => f (valAt v 1) (valAt v 2))

/-- One scalar source A. -/
def scalar1 (s : State) (d a : Spec) (f : Word → Word) : Out :=
  scalarOp s d [opA .ssrc a] (fun v => f (valAt v 1))

/-! ### Integer functions (R94, R95) -/

def shlWord (a b : Word) : Word := a <<< (b.toNat % 64)
def shrWord (a b : Word) : Word := a >>> (b.toNat % 64)
def sarWord (a b : Word) : Word := a.sshiftRight (b.toNat % 64)

def divWord (a b : Word) : Word :=
  if b = 0 then BitVec.allOnes 64 else wrap64 (a.toInt.tdiv b.toInt)
def modWord (a b : Word) : Word :=
  if b = 0 then a else wrap64 (a.toInt - b.toInt * a.toInt.tdiv b.toInt)
def divuWord (a b : Word) : Word := if b = 0 then BitVec.allOnes 64 else BitVec.ofNat 64 (a.toNat / b.toNat)
def moduWord (a b : Word) : Word := if b = 0 then a else BitVec.ofNat 64 (a.toNat % b.toNat)

def countOnes (a : Word) : Word := BitVec.ofNat 64 ((List.range 64).countP (fun i => a.getLsbD i))
def leadingZeros (a : Word) : Word := BitVec.ofNat 64 (if a = 0 then 64 else 63 - a.toNat.log2)
def trailingZeros (a : Word) : Word :=
  BitVec.ofNat 64 (((List.range 64).find? (fun i => a.getLsbD i)).getD 64)

def execAdd (d a b : Spec) (s : State) : Out := scalar2 s d a b (· + ·)
def execSub (d a b : Spec) (s : State) : Out := scalar2 s d a b (· - ·)
def execAnd (d a b : Spec) (s : State) : Out := scalar2 s d a b (· &&& ·)
def execOr (d a b : Spec) (s : State) : Out := scalar2 s d a b (· ||| ·)
def execXor (d a b : Spec) (s : State) : Out := scalar2 s d a b (· ^^^ ·)
def execShl (d a b : Spec) (s : State) : Out := scalar2 s d a b shlWord
def execShr (d a b : Spec) (s : State) : Out := scalar2 s d a b shrWord
def execSar (d a b : Spec) (s : State) : Out := scalar2 s d a b sarWord
def execMul (d a b : Spec) (s : State) : Out := scalar2 s d a b (· * ·)
def execMulh (d a b : Spec) (s : State) : Out :=
  scalar2 s d a b (fun a b => wrap64 (a.toInt * b.toInt / 2 ^ 64))
def execMulhu (d a b : Spec) (s : State) : Out :=
  scalar2 s d a b (fun a b => BitVec.ofNat 64 (a.toNat * b.toNat / 2 ^ 64))
def execDiv (d a b : Spec) (s : State) : Out := scalar2 s d a b divWord
def execDivu (d a b : Spec) (s : State) : Out := scalar2 s d a b divuWord
def execMod (d a b : Spec) (s : State) : Out := scalar2 s d a b modWord
def execModu (d a b : Spec) (s : State) : Out := scalar2 s d a b moduWord
def execMin (d a b : Spec) (s : State) : Out := scalar2 s d a b (fun a b => if b.toInt < a.toInt then b else a)
def execMax (d a b : Spec) (s : State) : Out := scalar2 s d a b (fun a b => if a.toInt < b.toInt then b else a)
def execMinu (d a b : Spec) (s : State) : Out := scalar2 s d a b (fun a b => if b.toNat < a.toNat then b else a)
def execMaxu (d a b : Spec) (s : State) : Out := scalar2 s d a b (fun a b => if a.toNat < b.toNat then b else a)
def execSlt (d a b : Spec) (s : State) : Out := scalar2 s d a b (fun a b => boolWord (cond .lt a b))
def execSltu (d a b : Spec) (s : State) : Out := scalar2 s d a b (fun a b => boolWord (cond .ltu a b))
def execSeq (d a b : Spec) (s : State) : Out := scalar2 s d a b (fun a b => boolWord (cond .eq a b))
def execClz (d a : Spec) (s : State) : Out := scalar1 s d a leadingZeros
def execCtz (d a : Spec) (s : State) : Out := scalar1 s d a trailingZeros
def execPopc (d a : Spec) (s : State) : Out := scalar1 s d a countOnes
def execMv (d a : Spec) (s : State) : Out := scalar1 s d a id

/-- `sext` and `zext`: the width code 0b11 faults ILLEGAL_OPERAND in the M field (R94). -/
def extend (s : State) (d a : Spec) (w : BitVec 2) (f : Nat → Word → Word) : Out :=
  finish s (do
    let (s1, v) ← gateWith s [opD .sdst d, opA .ssrc a] (need (w ≠ 3) (illegalOperand s 5))
    pure (retire (writeDst s1 d (f (8 * 2 ^ w.toNat) (valAt v 1)))))

def execSext (d a : Spec) (w : BitVec 2) (s : State) : Out :=
  extend s d a w (fun n v => (v.truncate n : BitVec n).signExtend 64)
def execZext (d a : Spec) (w : BitVec 2) (s : State) : Out :=
  extend s d a w (fun n v => (v.truncate n : BitVec n).zeroExtend 64)

/-! ### Immediates (R96, R97) -/

def immWord (imm : BitVec 32) : Word := imm.signExtend 64

def scalarImm (s : State) (d a : Spec) (imm : BitVec 32) (f : Word → Word → Word) : Out :=
  scalar1 s d a (fun a => f a (immWord imm))

/-- A shift count outside 0 to 63 faults ILLEGAL_OPERAND (R96). -/
def shiftImm (s : State) (d a : Spec) (imm : BitVec 32) (f : Word → Word → Word) : Out :=
  finish s (do
    let (s1, v) ← gateWith s [opD .sdst d, opA .ssrc a] (need (imm.toNat < 64) (illegalOperand s 6))
    pure (retire (writeDst s1 d (f (valAt v 1) (immWord imm)))))

def execAddi (d a : Spec) (imm : BitVec 32) (s : State) : Out := scalarImm s d a imm (· + ·)
def execAndi (d a : Spec) (imm : BitVec 32) (s : State) : Out := scalarImm s d a imm (· &&& ·)
def execOri (d a : Spec) (imm : BitVec 32) (s : State) : Out := scalarImm s d a imm (· ||| ·)
def execXori (d a : Spec) (imm : BitVec 32) (s : State) : Out := scalarImm s d a imm (· ^^^ ·)
def execShli (d a : Spec) (imm : BitVec 32) (s : State) : Out := shiftImm s d a imm shlWord
def execShri (d a : Spec) (imm : BitVec 32) (s : State) : Out := shiftImm s d a imm shrWord
def execSari (d a : Spec) (imm : BitVec 32) (s : State) : Out := shiftImm s d a imm sarWord
def execLi (d : Spec) (imm : BitVec 32) (s : State) : Out := scalarOp s d [] (fun _ => immWord imm)
def execLih (d a : Spec) (imm : BitVec 32) (s : State) : Out :=
  scalar1 s d a (fun a => (imm.zeroExtend 64 <<< 32) ||| (a &&& 0xFFFFFFFF#64))

/-! ### Scalar FP32 (R98 to R100) -/

/-- A source taken as a value of a type: an immediate is converted into it (R52, R92; log entry 22), anything else gives
its low bits. -/
def typedSrc (t : ETy) (sp : Spec) (v : Word) : Conv :=
  match sp with
  | .imm _ => convert (fvOfInt v.toInt) t
  | _ => (v, 0)

def f32Src (sp : Spec) (v : Word) : FV := f32Val (typedSrc .f32 sp v).1

def fp2 (s : State) (d a b : Spec) (f : FV → FV → Word) : Out :=
  scalarOp s d [opA .ssrc a, opB .ssrc b] (fun v => f (f32Src a (valAt v 1)) (f32Src b (valAt v 2)))

def execFadd (d a b : Spec) (s : State) : Out := fp2 s d a b (fun a b => f32Of (fvAdd a b))
def execFsub (d a b : Spec) (s : State) : Out := fp2 s d a b (fun a b => f32Of (fvSub a b))
def execFmul (d a b : Spec) (s : State) : Out := fp2 s d a b (fun a b => f32Of (fvMul a b))
def execFfma (d a b cc : Spec) (s : State) : Out :=
  scalarOp s d [opA .ssrc a, opB .ssrc b, opC .ssrc cc] (fun v =>
    f32Of (fvAdd (fvMul (f32Src a (valAt v 1)) (f32Src b (valAt v 2))) (f32Src cc (valAt v 3))))
def execFmin (d a b : Spec) (s : State) : Out := fp2 s d a b (fun a b => f32Of (fvMin a b))
def execFmax (d a b : Spec) (s : State) : Out := fp2 s d a b (fun a b => f32Of (fvMax a b))
def execFcmpEq (d a b : Spec) (s : State) : Out := fp2 s d a b (fun a b => boolWord (fvEq a b))
def execFcmpLt (d a b : Spec) (s : State) : Out := fp2 s d a b (fun a b => boolWord (fvLt a b))
def execFcmpLe (d a b : Spec) (s : State) : Out := fp2 s d a b (fun a b => boolWord (fvLe a b))
def execFcmpUn (d a b : Spec) (s : State) : Out := fp2 s d a b (fun a b => boolWord (fvIsNaN a || fvIsNaN b))

/-- `fcvt` (R100): codes 0 and 0xF fault ILLEGAL_OPERAND, cbx TAG_MISMATCH; saturations count in class 5. -/
def execFcvt (d a : Spec) (dt st : BitVec 4) (s : State) : Out :=
  finish s (do
    let (s1, v) ← gateWith s [opD .sdst d, opA .ssrc a] (do
      need (dt ≠ 0 && dt ≠ 15 && st ≠ 0 && st ≠ 15) (illegalOperand s 5)
      need (dt ≠ 14 && st ≠ 14) (tagMismatch s 5))
    let x := typedSrc (tyOfCode st) a (valAt v 1)
    let r := convert (valueOf (tyOfCode st) x.1) (tyOfCode dt)
    pure (retire (writeDst (curSat s1 5 (x.2 + r.2)) d (scalarOf (tyOfCode dt) r.1))))

/-! ### Branches and jumps (R101, R102) -/

/-- A relative target (R47). -/
def relTarget (pc : Word) (off : Int) : Word := pc + wrap64 (8 * off)

/-- A conditional transfer: taken to its target with ExitCheck, or past it with EndCheck. -/
def branchTo (s : State) (taken : Bool) (target : Word) : State := if taken then retireTo s target else retire s

def branch (s : State) (cc : CondCode) (a b : Spec) (off : BitVec 32) : Out :=
  finish s (do
    let (s1, v) ← gate s [opD .ssrc a, opA .ssrc b]
    pure (branchTo s1 (cond cc (valAt v 0) (valAt v 1)) (relTarget (curSeq s).pc off.toInt)))

def execBEq (a b : Spec) (off : BitVec 32) (s : State) : Out := branch s .eq a b off
def execBNe (a b : Spec) (off : BitVec 32) (s : State) : Out := branch s .ne a b off
def execBLt (a b : Spec) (off : BitVec 32) (s : State) : Out := branch s .lt a b off
def execBGe (a b : Spec) (off : BitVec 32) (s : State) : Out := branch s .ge a b off
def execBLtu (a b : Spec) (off : BitVec 32) (s : State) : Out := branch s .ltu a b off
def execBGeu (a b : Spec) (off : BitVec 32) (s : State) : Out := branch s .geu a b off

/-- A jump: with link destination x0 a transfer that may leave loops, otherwise a call (R105). -/
def jumpTo (s : State) (d : Spec) (target : Word) : State :=
  match d with
  | .x _ i => if i = 0 then retireTo s target else retireCall s target
  | _ => retireCall s target

def execJal (d : Spec) (off : BitVec 32) (s : State) : Out :=
  finish s (do
    let pc := (curSeq s).pc
    let (s1, _) ← gate s [opD .link d]
    pure (jumpTo (writeDst s1 d (pc + 8)) d (relTarget pc off.toInt)))

def execJr (d a : Spec) (s : State) : Out :=
  finish s (do
    let (s1, v) ← gate s [opD .link d, opA .jsrc a]
    let t := valAt v 1
    need (t.toNat % 8 = 0) (misaligned t 0)
    pure (jumpTo (writeDst s1 d ((curSeq s).pc + 8)) d t))

/-! ### Loops (R103, R109) -/

def execLoop (n : Spec) (p : Bool) (off : BitVec 32) (s : State) : Out :=
  finish s (do
    let q := curSeq s
    let last := relTarget q.pc off.toInt
    let (s1, v) ← gateWith s [opD .ssrc n]
      (need (1 ≤ off.toInt && q.loops.head?.map LoopEntry.last ≠ some q.pc) (illegalOperand s 1))
    let count := valAt v 0
    if count = 0 then pure (retireAt s1 last)
    else do
      need (q.loops.length < 6) (faultWith 0x0C 0 0 0)
      pure (retired s1 (fun r =>
        { r with pc := q.pc + 8, atBound := false
                 loops := ⟨0, count - 1, q.pc + 8, last, p⟩ :: r.loops })))

/-- The registers `sbr` advances. -/
def sbrAdvanced (r1 r2 r3 r4 : BitVec 5) (n : BitVec 2) (na : Bool) : List (BitVec 5) :=
  if na then [] else [r1, r2, r3, r4].take (n.toNat + 1)

def execSbr (cnt r1 r2 r3 r4 : BitVec 5) (n : BitVec 2) (na : Bool) (sh : BitVec 2) (off : BitVec 18) (s : State) :
    Out :=
  finish s (do
    let adv := sbrAdvanced r1 r2 r3 r4 n na
    let c := curCtx s
    let (s1, _) ← gateWith s ((cnt :: adv).map (fun i => opD .ssrc (.x false i))) (do
      need ((cnt :: adv).Nodup) (illegalOperand s 1)
      need (c.slices ≠ 0) noVectorContext)
    let q := curSeq s
    let w := 1024 * c.slices / 2 ^ sh.toNat
    let left := (xRead q cnt).toNat
    let k := min left w
    let rest := BitVec.ofNat 64 (left - k)
    let s2 := modSeq s1 (fun r =>
      adv.foldl (fun r i => xWrite r i (xRead q i + BitVec.ofNat 64 (k * 2 ^ sh.toNat))) r)
    let s3 := modSeq s2 (fun r => lShift (xWrite r cnt rest) rest)
    pure (branchTo s3 (rest ≠ 0) (relTarget q.pc off.toInt)))

/-! ### Branch outcomes and mask skips (R110 to R112) -/

def bout (s : State) (cc : CondCode) (d a b : Spec) : Out :=
  finish s (do
    let (s1, v) ← gate s [opD .bqName d, opA .ssrc a, opB .ssrc b]
    if 64 ≤ (curCtx s).bq.length then stallIn s .queue
    else if streamStores (curCtx s) s.cur.side s.ids then stallIn s .none
    else pure (retire (modCur s1 (fun c => { c with bq := c.bq ++ [cond cc (valAt v 1) (valAt v 2)] }))))

def execBoutEq (d a b : Spec) (s : State) : Out := bout s .eq d a b
def execBoutNe (d a b : Spec) (s : State) : Out := bout s .ne d a b
def execBoutLt (d a b : Spec) (s : State) : Out := bout s .lt d a b
def execBoutGe (d a b : Spec) (s : State) : Out := bout s .ge d a b
def execBoutLtu (d a b : Spec) (s : State) : Out := bout s .ltu d a b
def execBoutGeu (d a b : Spec) (s : State) : Out := bout s .geu d a b

def execBin (a : Spec) (off : BitVec 32) (s : State) : Out :=
  finish s (do
    let (s1, _) ← gate s [opD .bqName a]
    match (curCtx s).bq with
    | [] => stallIn s .queue
    | b :: r =>
      let s2 := modSeq (modCur s1 (fun c => { c with bq := r })) (fun q => { q with ahead := [], acq := s.ids })
      pure (branchTo s2 b (relTarget (curSeq s).pc off.toInt)))

/-- m at an element: all ones at depth 0 (R76). -/
def maskBit (c : Ctx) (i : Nat) : Bool :=
  match c.masks with
  | [] => true
  | m :: _ => m.getLsbD i

/-- A context that took over a slice group waits with its vector state until the outgoing spill is done (R364). -/
def vectorReady (s : State) : Res Unit :=
  match (slotAt s s.cur.slot).mirror with
  | .spilling k =>
    let c := curCtx s
    let d := ctxAt s k
    if c.slices ≠ 0 && d.slices ≠ 0 && decide (c.first < d.first + d.slices) && decide (d.first < c.first + c.slices)
    then stallIn s .none else .ok ()
  | _ => .ok ()

/-- Vector state may be named: the hart holds slices (R75), and they are its own already (R364). -/
def needVector (s : State) : Res Unit := do
  need ((curCtx s).slices ≠ 0) noVectorContext
  vectorReady s

def execBmz (a : Spec) (off : BitVec 32) (s : State) : Out :=
  finish s (do
    let (s1, _) ← gate s [opD .mName a]
    needVector s
    let c := curCtx s
    let skip := (List.range c.vl.toNat).all (fun i => !maskBit c i)
    pure (branchTo s1 skip (relTarget (curSeq s).pc off.toInt)))

/-! ### System instructions (R113 to R117, R79 to R82) -/

def execNop (s : State) : Out := finish s (pure (retire s))

/-- The state words of Table 4.2: their values, none for a number that is not in it. -/
def stateWord (s : State) (num : Nat) : Option Word :=
  let c := curCtx s
  let q := curSeq s
  let l := slotAt s s.cur.slot
  let p := partAt s c.part
  let d := dieAt s (dieOfSlot s.cur.slot)
  let n : Nat → Word := BitVec.ofNat 64
  match num with
  | 0x000 => some (n (s.cur.slot % 4096 + (if s.cur.side = .x then 4096 else 0) + s.node.toNat * 2 ^ 16))
  | 0x001 => some c.gang
  | 0x002 => some (n (c.part % 16))
  | 0x003 => some (n c.prio.toNat)
  | 0x010 => some c.vl
  | 0x011 => some (n (256 * c.slices))
  | 0x012 => some q.rl
  | 0x013 => some q.tl
  | 0x014 => some (n (c.slices % 16 + c.first % 16 * 2 ^ 4 + poolOfCore c.core % 128 * 2 ^ 8))
  | 0x020 => some (n p.chain.toNat)
  | 0x021 => some (n s.svc.toNat)
  | 0x030 => some p.ptroot
  | 0x031 => some p.kvpool
  | 0x032 => some p.kvpages
  | 0x033 => some p.prism
  | 0x034 => some p.evlog
  | 0x035 => some p.evmask
  | 0x048 => some l.satthr
  | 0x049 => some l.satwin
  | 0x050 => some (n d.bankmax.toNat)
  | 0x051 => some (n d.bkidle.toNat)
  | 0x052 => some (n s.actalert.toNat)
  | 0x053 => some (n s.actmgmt.toNat)
  | 0x060 => some (n p.wdog.toNat)
  | k =>
    if 0x040 ≤ k && k ≤ 0x047 then some (l.sat.getD (k - 0x040) 0)
    else if 0x080 ≤ k && k ≤ 0x08F then some (l.pm.getD (k - 0x080) 0)
    else none

/-- Words marked "X only" (Table 4.2). -/
def xOnlyWord (num : Nat) : Bool := num = 0x010 || num = 0x011 || num = 0x014

/-- Words software may write (RW in Table 4.2). -/
def rwWord (num : Nat) : Bool :=
  num = 0x010 || num = 0x012 || num = 0x013 || num = 0x031 || num = 0x032 || num = 0x033 || num = 0x035 ||
    (0x040 ≤ num && num ≤ 0x049) || (0x080 ≤ num && num ≤ 0x08F)

/-- The number and access checks of R80 that `sget` and `sset` share; the word's value. -/
def checkWord (s : State) (num : BitVec 12) : Res Word :=
  match stateWord s num.toNat with
  | none => illegalOperand s 5
  | some v => if xOnlyWord num.toNat && s.cur.side = .a then illegalOperand s 5 else .ok v

def execSget (d : Spec) (num : BitVec 12) (s : State) : Out :=
  finish s (do
    let (s1, _) ← gateWith s [opD .sdst d] (do let _ ← checkWord s num)
    let v ← checkWord s num
    if num = 0x010 then vectorReady s
    pure (retire (writeDst s1 d v)))

/-- A write of a saturation-window word (R350): the present window begins again where the rule says so. -/
def setWindow (s : State) (l : Slot) (win : Bool) (v : Word) : Slot :=
  let l1 := if win then { l with satwin := v } else { rollWindow s l with satthr := v }
  if l1.satwin = 0 then { l1 with winStart := s.now, winCount := 0, winFired := false }
  else if win then { l1 with winStart := s.now / l1.satwin.toNat * l1.satwin.toNat, winCount := 0, winFired := false }
  else l1

/-- The write of R115. -/
def writeWord (s : State) (num : Nat) (a : Word) : State :=
  let part (f : Part → Part) : State := modPart s (curPart s) f
  let slot (f : Slot → Slot) : State := modSlot s s.cur.slot f
  match num with
  | 0x010 => modCur s (fun c => { c with vl := BitVec.ofNat 64 (min a.toNat (256 * c.slices)) })
  | 0x012 => modSeq s (fun q => { q with rl := a })
  | 0x013 => modSeq s (fun q => { q with tl := a })
  | 0x031 => part (fun p => { p with kvpool := a &&& ~~~63#64 })
  | 0x032 => part (fun p => { p with kvpages := a })
  | 0x033 => part (fun p => { p with prism := a &&& ~~~63#64 })
  | 0x035 => part (fun p => { p with evmask := a &&& 0x5F#64 })
  | 0x048 => slot (fun l => setWindow s l false a)
  | 0x049 => slot (fun l => setWindow s l true a)
  | k =>
    if 0x040 ≤ k && k ≤ 0x047 then slot (fun l => { l with sat := l.sat.setIfInBounds (k - 0x040) a })
    else if 0x080 ≤ k && k ≤ 0x08F then slot (fun l => { l with pm := l.pm.setIfInBounds (k - 0x080) a })
    else s

def execSset (num : BitVec 12) (a : Spec) (s : State) : Out :=
  finish s (do
    let (s1, v) ← gateWith s [opA .ssrc a] (do
      let _ ← checkWord s num
      need (rwWord num.toNat) (faultWith 0x06 0 0 0))
    if num = 0x010 then vectorReady s
    pure (retire (writeWord s1 num.toNat (valAt v 0))))

/-- `live` (R116): registers whose bit is clear die; bit 0 is ignored. -/
def execLive (mask : BitVec 32) (s : State) : Out :=
  finish s (pure (retire (modSeq s (fun q => { q with live := q.live &&& mask }))))

def execTrap (code : BitVec 15) (s : State) : Out := finish s (faultWith 0x13 0 0 (code.zeroExtend 16))
def execBrk (code : BitVec 15) (s : State) : Out := finish s (faultWith 0x13 0 0 (0x8000 + code.zeroExtend 16))

end Sys2Proof.Machine
end

