-- ==== Sys2Proof/Machine/Vector.lean ====
section
/-!
DEFINITION. The vector instructions (R118 to R155): slices, element-wise operations, masks, permutes, reductions,
compress and top-k, conversions, and the lookup fallback. Chaining (R153) changes time only.
-/

namespace Sys2Proof.Machine

/-! ### Registers and elements (R119, R120) -/

/-- Bytes of an element in a register; an f4e2m1 element takes one. -/
def elemBytes (t : ETy) : Nat := max 1 (tyWidth t / 8)

/-- An element's own bits. -/
def elemMask (t : ETy) (w : Word) : Word := BitVec.ofNat 64 (w.toNat % 2 ^ tyWidth t)

/-- The first `n` elements of a register's bytes. -/
def elemsOf (t : ETy) : Nat → List Byte → List Word
  | 0, _ => []
  | n + 1, l => elemMask t (BitVec.ofNat 64 (leNat (l.take (elemBytes t)))) :: elemsOf t n (l.drop (elemBytes t))

/-- A register's bytes with elements written; `none` keeps an element's bytes. -/
def putElems (t : ETy) : List Byte → List (Option Word) → List Byte
  | l, [] => l
  | l, v :: r =>
    (match v with
      | some w => leBytes (elemBytes t) (elemMask t w).toNat
      | none => l.take (elemBytes t)) ++ putElems t (l.drop (elemBytes t)) r

/-- VLMAX for an element width in bytes (R120). -/
def vlmax (c : Ctx) (w : Nat) : Nat := 1024 * c.slices / w

/-- VLeff over element types (R120). -/
def vlEff (c : Ctx) (ts : List ETy) : Nat := min c.vl.toNat (vlmax c (ts.foldl (fun m t => max m (elemBytes t)) 1))

/-- Which of the first `n` elements are active (R128). -/
def activeList (c : Ctx) (k : Bool) (n : Nat) : List Bool := (List.range n).map (fun i => !k || maskBit c i)

def topList (c : Ctx) (n : Nat) : List Bool := activeList c true n

def setVreg (s : State) (i : BitVec 5) (r : VReg) : State := modCur s (fun c => { c with v := c.v.set i.toNat r i.isLt })

def vregOf (c : Ctx) : Spec → VReg
  | .v i => c.v[i.toNat]'i.isLt
  | _ => ⟨.none, []⟩

/-- A v register destination takes its new bytes and tag. -/
def writeVreg (s : State) (d : Spec) (r : VReg) : State :=
  match d with
  | .v i => setVreg s i r
  | _ => s

/-! ### Tag classes (Table 6.2) -/

def tagFLT (t : ETy) : Bool := t = .bf16 || t = .f16 || t = .f32
def tagIF (t : ETy) : Bool := tyInt t || tagFLT t
def tagANY (t : ETy) : Bool := tyNumeric t || t = .cbx

/-- A vector source: its operand, and the tags accepted there. -/
structure VSrc where
  op : Opnd
  acc : ETy → Bool

def isImm : Spec → Bool
  | .imm _ => true
  | _ => false

/-- The tag check of R126 on the sources that are no immediates, in order; the first one's tag. -/
def checkTags (s : State) (c : Ctx) (ops : List Opnd) (same : Bool) : Option ETy → List VSrc → Res (Option ETy)
  | t0, [] => .ok t0
  | t0, v :: r =>
    if isImm v.op.sp then checkTags s c ops same t0 r
    else
      let t := (vregOperand c (ops.takeWhile (fun o => o ≠ v.op)) v.op.sp).tag
      if t ≠ .none && v.acc t && (!same || t0 = none || t0 = some t) then checkTags s c ops same (t0.or (some t)) r
      else tagMismatch s v.op.pos

/-- An immediate needs a tag it can be converted into (R31, R127). -/
def checkImms (s : State) (t : ETy) : List VSrc → Res Unit
  | [] => .ok ()
  | v :: r => if isImm v.op.sp && !(tyNumeric t && v.acc t) then tagMismatch s v.op.pos else checkImms s t r

/-- The tag of a source; an immediate has the other source's. -/
def srcTag (c : Ctx) (ops : List Opnd) (t0 : ETy) (v : VSrc) : ETy :=
  if isImm v.op.sp then t0 else (vregOperand c (ops.takeWhile (fun o => o ≠ v.op)) v.op.sp).tag

/-- The first `n` elements of a source. -/
def srcElems (c : Ctx) (ops : List Opnd) (t0 : ETy) (n : Nat) (v : VSrc) : List Word :=
  match v.op.sp with
  | .imm i => List.replicate n (convert (fvOfInt i.toInt) t0).1
  | sp =>
    let r := vregOperand c (ops.takeWhile (fun o => o ≠ v.op)) sp
    elemsOf r.tag n r.data

/-- Immediate sources that saturate when converted (R127). -/
def immSats (t0 : ETy) (src : List VSrc) : Nat :=
  src.foldl (fun n v => match v.op.sp with | .imm i => n + (convert (fvOfInt i.toInt) t0).2 | _ => n) 0

/-- The inputs of a vector instruction: the state after its pops, the scalar values by operand, its first source's tag,
and its sources' tags. -/
structure VIn where
  s : State
  c : Ctx
  ops : List Opnd
  vals : List Word
  t0 : ETy
  tags : List ETy

/-- The common start (R127, R129): operands and fields, NO_VECTOR_CONTEXT, the tags of D, then those of the vector
sources. -/
def vecStart (s : State) (ops : List Opnd) (fields : Res Unit) (dCheck : Res Unit) (same : Bool) (src : List VSrc) :
    Res VIn := do
  let c := curCtx s
  let (s1, vals) ← gateWith s ops (do
    (match src with
      | [] => pure ()
      | v :: r => need (!(v :: r).all (fun x => isImm x.op.sp)) (illegalOperand s v.op.pos))
    fields
    need (c.slices ≠ 0) noVectorContext)
  vectorReady s
  dCheck
  let t0 ← checkTags s c ops same none src
  let t := t0.getD .none
  checkImms s t src
  pure ⟨s1, c, ops, vals, t, src.map (srcTag c ops t)⟩

/-- The values of the sources, element by element. -/
def rowsOf (n : Nat) (cols : List (List Word)) : List (List Word) :=
  cols.foldr (fun col rows => List.zipWith (fun a r => a :: r) col rows) (List.replicate n [])

/-- The new elements of a destination: results where active (R128). -/
def pickActive (act : List Bool) (res : List Conv) : List (Option Conv) :=
  List.zipWith (fun a r => if a then some r else none) act res

/-- Writes a vector result: element values with their saturation counts of a class, the immediates' saturations in
class 0, and the active elements in sw.pm8. -/
def vecWrite (i : VIn) (d : Spec) (t : ETy) (vals : List (Option Conv)) (cls imm : Nat) : State :=
  let n := vals.countP Option.isSome
  let sats := vals.foldl (fun m v => m + (v.map Prod.snd).getD 0) 0
  let s1 := curSat (curSat i.s cls sats) 0 (imm * n)
  writeVreg (curPm s1 8 n) d ⟨t, putElems t (vregOf i.c d).data (vals.map (Option.map Prod.fst))⟩

/-- An element-wise instruction (`VecOp`, R128): all sources of one tag, which the result takes. -/
def vecOp (s : State) (k : Bool) (d : Spec) (src : List VSrc) (f : ETy → List Word → Word) : Out :=
  finish s (do
    let i ← vecStart s (opD .vreg d :: src.map VSrc.op) (.ok ()) (.ok ()) true src
    let n := vlEff i.c [i.t0]
    let rows := rowsOf n (src.map (srcElems i.c i.ops i.t0 n))
    let vals := pickActive (activeList i.c k n) (rows.map (fun r => (f i.t0 r, 0)))
    pure (retire (vecWrite i d i.t0 vals 0 (immSats i.t0 src))))

def vec2 (s : State) (k : Bool) (d a b : Spec) (acc : ETy → Bool) (f : ETy → Word → Word → Word) : Out :=
  vecOp s k d [⟨opA .vsrc a, acc⟩, ⟨opB .vsrc b, acc⟩] (fun t r => f t (valAt r 0) (valAt r 1))

def vec1 (s : State) (k : Bool) (d a : Spec) (acc : ETy → Bool) (f : ETy → Word → Word) : Out :=
  vecOp s k d [⟨opA .vsrc a, acc⟩] (fun t r => f t (valAt r 0))

/-! ### Element functions (R130 to R133) -/

/-- An element of an integer tag as a number. -/
def intOf (t : ETy) (w : Word) : Int :=
  let n := w.toNat % 2 ^ tyWidth t
  if tySigned t && 2 ^ tyWidth t ≤ 2 * n then (n : Int) - 2 ^ tyWidth t else n

def elAdd (t : ETy) (a b : Word) : Word := if tyInt t then a + b else floatOp t fvAdd a b
def elSub (t : ETy) (a b : Word) : Word := if tyInt t then a - b else floatOp t fvSub a b
def elMul (t : ETy) (a b : Word) : Word := if tyInt t then a * b else floatOp t fvMul a b
def elMulh (t : ETy) (a b : Word) : Word := wrap64 (intOf t a * intOf t b / 2 ^ tyWidth t)
def elMin (t : ETy) (a b : Word) : Word :=
  if tyInt t then (if intOf t b < intOf t a then b else a) else floatOp t fvMin a b
def elMax (t : ETy) (a b : Word) : Word :=
  if tyInt t then (if intOf t a < intOf t b then b else a) else floatOp t fvMax a b
def elShl (t : ETy) (a b : Word) : Word := a <<< (b.toNat % tyWidth t)
def elShr (t : ETy) (a b : Word) : Word := a >>> (b.toNat % tyWidth t)
/-- Copies of bit W − 1 come in, whatever the tag's signedness. -/
def elSar (t : ETy) (a b : Word) : Word :=
  let n := a.toNat % 2 ^ tyWidth t
  let v : Int := if 2 ^ tyWidth t ≤ 2 * n then (n : Int) - 2 ^ tyWidth t else n
  wrap64 (v / 2 ^ (b.toNat % tyWidth t))
def elFma (t : ETy) (a b c : Word) : Word :=
  if tyInt t then a * b + c else (convert (fvAdd (fvMul (valueOf t a) (valueOf t b)) (valueOf t c)) t).1
def signBit (t : ETy) : Word := 1#64 <<< (tyWidth t - 1)
def elAbs (t : ETy) (a : Word) : Word :=
  if tyInt t then BitVec.ofNat 64 (intOf t a).natAbs else a &&& ~~~signBit t
def elNeg (t : ETy) (a : Word) : Word := if tyInt t then 0 - a else a ^^^ signBit t
def elPopc (_ : ETy) (a : Word) : Word := countOnes a
def elClz (t : ETy) (a : Word) : Word := BitVec.ofNat 64 (if a = 0 then tyWidth t else tyWidth t - 1 - a.toNat.log2)
def elTrans (f : FV → FV) (t : ETy) (a : Word) : Word := (convert (f (valueOf t a)) t).1

def execVadd (k : Bool) (d a b : Spec) (s : State) : Out := vec2 s k d a b tagIF elAdd
def execVsub (k : Bool) (d a b : Spec) (s : State) : Out := vec2 s k d a b tagIF elSub
def execVmul (k : Bool) (d a b : Spec) (s : State) : Out := vec2 s k d a b tagIF elMul
def execVmulh (k : Bool) (d a b : Spec) (s : State) : Out := vec2 s k d a b tyInt elMulh
def execVmin (k : Bool) (d a b : Spec) (s : State) : Out := vec2 s k d a b tagIF elMin
def execVmax (k : Bool) (d a b : Spec) (s : State) : Out := vec2 s k d a b tagIF elMax
def execVand (k : Bool) (d a b : Spec) (s : State) : Out := vec2 s k d a b tagANY (fun _ a b => a &&& b)
def execVor (k : Bool) (d a b : Spec) (s : State) : Out := vec2 s k d a b tagANY (fun _ a b => a ||| b)
def execVxor (k : Bool) (d a b : Spec) (s : State) : Out := vec2 s k d a b tagANY (fun _ a b => a ^^^ b)
def execVshl (k : Bool) (d a b : Spec) (s : State) : Out := vec2 s k d a b tyInt elShl
def execVshr (k : Bool) (d a b : Spec) (s : State) : Out := vec2 s k d a b tyInt elShr
def execVsar (k : Bool) (d a b : Spec) (s : State) : Out := vec2 s k d a b tyInt elSar
def execVfma (k : Bool) (d a b cc : Spec) (s : State) : Out :=
  vecOp s k d [⟨opA .vsrc a, tagIF⟩, ⟨opB .vsrc b, tagIF⟩, ⟨opC .vsrc cc, tagIF⟩]
    (fun t r => elFma t (valAt r 0) (valAt r 1) (valAt r 2))
def execVabs (k : Bool) (d a : Spec) (s : State) : Out := vec1 s k d a tagIF elAbs
def execVneg (k : Bool) (d a : Spec) (s : State) : Out := vec1 s k d a tagIF elNeg
def execVnot (k : Bool) (d a : Spec) (s : State) : Out := vec1 s k d a tagANY (fun _ a => ~~~a)
def execVpopc (k : Bool) (d a : Spec) (s : State) : Out := vec1 s k d a tyInt elPopc
def execVclz (k : Bool) (d a : Spec) (s : State) : Out := vec1 s k d a tyInt elClz
def execVexp2 (k : Bool) (d a : Spec) (s : State) : Out := vec1 s k d a tagFLT (elTrans fvExp2)
def execVlog2 (k : Bool) (d a : Spec) (s : State) : Out := vec1 s k d a tagFLT (elTrans fvLog2)
def execVrcp (k : Bool) (d a : Spec) (s : State) : Out := vec1 s k d a tagFLT (elTrans fvRcp)
def execVrsqrt (k : Bool) (d a : Spec) (s : State) : Out := vec1 s k d a tagFLT (elTrans fvRsqrt)
def execVsqrt (k : Bool) (d a : Spec) (s : State) : Out := vec1 s k d a tagFLT (elTrans fvSqrt)

/-! ### Configuration (R122 to R125) -/

/-- The slices of a pool that contexts hold, those of `out` apart: contexts in hart slots and in mirror banks, and the
groups acquired for staged iterations (R118, R364). -/
def slicesTaken (s : State) (pool : Nat) (out : Option Nat) : List (Nat × Nat) :=
  (s.ctxs.filter (fun e => decide (poolOfCore e.2.core = pool) && e.2.slices ≠ 0 && e.2.place ≠ .out &&
    some e.1 ≠ out)).map (fun e => (e.2.first, e.2.slices)) ++
  s.slots.filterMap (fun e => match e.2.mirror with
    | .staged (.new _ first n) => if poolOfCore (coreOfSlot e.1) = pool && n ≠ 0 then some (first, n) else none
    | _ => none)

/-- The lowest-numbered aligned group of `n` slices, all free (R118, R122). -/
def freeGroup (s : State) (pool n : Nat) (out : Option Nat) : Option Nat :=
  ((List.range (12 / n)).map (· * n)).find? (fun g =>
    (slicesTaken s pool out).all (fun t => decide (g + n ≤ t.1) || decide (t.1 + t.2 ≤ g)))

/-- Fresh registers: unspecified contents (R122, log entry 13), no tags. -/
def freshRegs (n gen : Nat) : Vector VReg 32 :=
  Vector.ofFn (fun i => ⟨.none, (List.range (1024 * n)).map (fun j => Config.vregByte gen (12288 * i.val + j))⟩)

/-- The vector state of a context with `n` slices from `first` on, or with none (R122, R123, R253). -/
def giveSlices (c : Ctx) (first n gen : Nat) : Ctx :=
  { c with slices := n, first := first, vl := 0, masks := [], v := freshRegs n gen, w := Vector.replicate 2 [] }

def execVacq (d : Spec) (n : BitVec 4) (s : State) : Out :=
  finish s (do
    let c := curCtx s
    let k := n.toNat
    let (s1, _) ← gateWith s [opD .sdst d] (do
      need (c.slices = 0) (illegalOperand s 6)
      need (k = 1 || k = 2 || k = 4 || k = 12) (illegalOperand s 5))
    match freeGroup s (poolOfCore c.core) k none with
    | none => pure (retire (writeDst s1 d 1))
    | some g =>
      let s2 := modCur s1 (fun c => giveSlices c g k s.free)
      pure (retire (writeDst { s2 with free := s2.free + 1 } d 0)))

def execVrel (s : State) : Out :=
  finish s (do
    if (curCtx s).slices = 0 then pure (retire s)
    else do
      vectorReady s
      pure (retire (modCur s (fun c => giveSlices c 0 0 0))))

def execVsetl (d a : Spec) (w : BitVec 2) (s : State) : Out :=
  finish s (do
    let (s1, v) ← gate s [opD .sdst d, opA .ssrc a]
    vectorReady s
    let vl := BitVec.ofNat 64 (min (valAt v 1).toNat (vlmax (curCtx s) (2 ^ w.toNat)))
    pure (retire (writeDst (modCur s1 (fun c => { c with vl := vl })) d vl)))

def execVtag (d : Spec) (t : BitVec 4) (s : State) : Out :=
  finish s (do
    let i ← vecStart s [opD .vreg d] (need (t ≠ 15) (illegalOperand s 5)) (.ok ()) true []
    pure (retire (writeVreg i.s d { vregOf i.c d with tag := tyOfCode t })))

/-! ### Compare and the mask stack (R134 to R138) -/

/-- A mask entry from its first bits; the others are 0 (R76). -/
def maskEntry (l : List Bool) : BitVec 12288 := BitVec.ofNat 12288 (l.foldr (fun b n => b.toNat + 2 * n) 0)

def maskStack {α : Type} (c : Ctx) : Res α := faultWith 0x0D 0 0 (BitVec.ofNat 16 c.masks.length)

/-- The orders a comparison can find. -/
inductive CmpCode where
  | eq | ne | lt | le | gt | ge | un
  deriving DecidableEq, Repr, Inhabited

/-- `Cmp` (R134). -/
def elCmp (cc : CmpCode) (t : ETy) (a b : Word) : Bool :=
  let x := valueOf t a
  let y := valueOf t b
  match cc with
  | .eq => fvEq x y
  | .ne => !fvEq x y
  | .lt => fvLt x y
  | .le => fvLe x y
  | .gt => fvLt y x
  | .ge => fvLe y x
  | .un => fvIsNaN x || fvIsNaN y

def vcmp (s : State) (cc : CmpCode) (d a b : Spec) : Out :=
  finish s (do
    let acc := if cc = .un then tagFLT else tagIF
    let src : List VSrc := [⟨opA .vsrc a, acc⟩, ⟨opB .vsrc b, acc⟩]
    let i ← vecStart s (opD .mName d :: src.map VSrc.op) (.ok ()) (.ok ()) true src
    need (i.c.masks.length < 8) (maskStack i.c)
    let n := vlEff i.c [i.t0]
    let hits := (rowsOf n (src.map (srcElems i.c i.ops i.t0 n))).map (fun r => elCmp cc i.t0 (valAt r 0) (valAt r 1))
    let e := maskEntry (List.zipWith (· && ·) hits (topList i.c n))
    let s1 := curPm (curSat i.s 0 (immSats i.t0 src * n)) 8 n
    pure (retire (modCur s1 (fun c => { c with masks := e :: c.masks }))))

def execVcmpEq (d a b : Spec) (s : State) : Out := vcmp s .eq d a b
def execVcmpNe (d a b : Spec) (s : State) : Out := vcmp s .ne d a b
def execVcmpLt (d a b : Spec) (s : State) : Out := vcmp s .lt d a b
def execVcmpLe (d a b : Spec) (s : State) : Out := vcmp s .le d a b
def execVcmpGt (d a b : Spec) (s : State) : Out := vcmp s .gt d a b
def execVcmpGe (d a b : Spec) (s : State) : Out := vcmp s .ge d a b
def execVcmpUn (d a b : Spec) (s : State) : Out := vcmp s .un d a b

/-- The elements of a source that differ from 0, with the depth check of `mpush` or `mset`. -/
def maskSource (s : State) (d a : Spec) (depthOk : Nat → Bool) : Res (VIn × List Bool) := do
  let src : List VSrc := [⟨opA .vsrc a, tyInt⟩]
  let i ← vecStart s (opD .mName d :: src.map VSrc.op) (.ok ()) (.ok ()) true src
  need (depthOk i.c.masks.length) (maskStack i.c)
  let n := vlEff i.c [i.t0]
  pure ({ i with s := curPm i.s 8 n }, (srcElems i.c i.ops i.t0 n ⟨opA .vsrc a, tyInt⟩).map (fun w => decide (w ≠ 0)))

def execMpush (d a : Spec) (s : State) : Out :=
  finish s (do
    let (i, bits) ← maskSource s d a (fun n => n < 8)
    let e := maskEntry (List.zipWith (· && ·) bits (topList i.c bits.length))
    pure (retire (modCur i.s (fun c => { c with masks := e :: c.masks }))))

def execMset (d a : Spec) (s : State) : Out :=
  finish s (do
    let (i, bits) ← maskSource s d a (fun n => n ≠ 0)
    pure (retire (modCur i.s (fun c => { c with masks := maskEntry bits :: c.masks.tail }))))

/-- `minv`'s new top (R136): Below AND NOT Top, no bit at sw.vl or above. -/
def invertTop (vl : Nat) (top : BitVec 12288) (rest : List (BitVec 12288)) : BitVec 12288 :=
  (rest.head?.getD (BitVec.allOnes 12288)) &&& ~~~top &&& BitVec.ofNat 12288 (2 ^ vl - 1)

def execMinv (d : Spec) (s : State) : Out :=
  finish s (do
    let i ← vecStart s [opD .mName d] (.ok ()) (.ok ()) true []
    match i.c.masks with
    | [] => maskStack i.c
    | m :: r => pure (retire (modCur i.s (fun c => { c with masks := invertTop c.vl.toNat m r :: r }))))

def execMpop (d : Spec) (s : State) : Out :=
  finish s (do
    let i ← vecStart s [opD .mName d] (.ok ()) (.ok ()) true []
    need (i.c.masks ≠ []) (maskStack i.c)
    pure (retire (modCur i.s (fun c => { c with masks := c.masks.tail }))))

def execMget (t : BitVec 4) (d a : Spec) (s : State) : Out :=
  finish s (do
    let ty := tyOfCode t
    let i ← vecStart s [opD .vreg d, opA .mName a] (need (tyInt ty) (illegalOperand s 5)) (.ok ()) true []
    let vals : List (Option Conv) := (topList i.c (vlEff i.c [ty])).map (fun b => some (boolWord b, 0))
    pure (retire (vecWrite i d ty vals 0 0)))

/-- `vsel`: a saturating immediate counts for the elements that take it (R127). -/
def execVsel (d a b : Spec) (s : State) : Out :=
  finish s (do
    let src : List VSrc := [⟨opA .vsrc a, tagANY⟩, ⟨opB .vsrc b, tagANY⟩]
    let i ← vecStart s (opD .vreg d :: src.map VSrc.op) (.ok ()) (.ok ()) true src
    let n := vlEff i.c [i.t0]
    let rows := rowsOf n (src.map (srcElems i.c i.ops i.t0 n))
    let vals : List (Option Conv) :=
      List.zipWith (fun t r => some (if t then valAt r 0 else valAt r 1, 0)) (topList i.c n) rows
    let takes := (topList i.c n).countP id
    let sats := immSats i.t0 (src.take 1) * takes + immSats i.t0 (src.drop 1) * (n - takes)
    pure (retire (vecWrite { i with s := curSat i.s 0 sats } d i.t0 vals 0 0)))

/-! ### Moves and permutes (R139 to R142) -/

def execVmov (k : Bool) (d a : Spec) (s : State) : Out := vec1 s k d a tagANY (fun _ a => a)

/-- `vbcast` and `viota`: element `i` from the scalar. -/
def vecFromScalar (s : State) (t : BitVec 4) (k : Bool) (d a : Spec) (acc : ETy → Bool) (f : Nat → Word → Word) : Out :=
  finish s (do
    let ty := tyOfCode t
    let i ← vecStart s [opD .vreg d, opA .ssrc a] (need (acc ty) (illegalOperand s 5)) (.ok ()) true []
    let n := vlEff i.c [ty]
    let vals := pickActive (activeList i.c k n) ((List.range n).map (fun j => (f j (valAt i.vals 1), 0)))
    pure (retire (vecWrite i d ty vals 0 0)))

def execVbcast (t : BitVec 4) (k : Bool) (d a : Spec) (s : State) : Out :=
  vecFromScalar s t k d a tagANY (fun _ a => a)
def execViota (t : BitVec 4) (k : Bool) (d a : Spec) (s : State) : Out :=
  vecFromScalar s t k d a tyInt (fun i a => a + BitVec.ofNat 64 i)

/-- A permute: each active element takes the source element `pick` names, zero bits where there is none below VLeff. -/
def permuted (i : VIn) (k : Bool) (d : Spec) (n : Nat) (el : List Word) (pick : List (Option Nat)) : State :=
  let vals := pick.map (fun p => match p with | some j => (if j < n then valAt el j else 0, 0) | none => (0, 0))
  vecWrite i d i.t0 (pickActive (activeList i.c k n) vals) 0 0

/-- `vperm`. A saturating immediate counts, as R127 says of every vector source, although the text under Table 6.7 says that
these instructions count no saturation (log entry 70): as data for each active element that takes it, as an index for each
active element. Widths are those of register elements, where f4e2m1 takes a byte (R119). -/
def execVperm (k : Bool) (d a b : Spec) (s : State) : Out :=
  finish s (do
    let src : List VSrc := [⟨opA .vsrc a, tagANY⟩, ⟨opB .vsrc b, tagANY⟩]
    let i ← vecStart s (opD .vreg d :: src.map VSrc.op) (.ok ()) (.ok ()) false src
    let ta := i.tags.getD 0 .none
    let tb := i.tags.getD 1 .none
    need (tyInt tb && elemBytes ta = elemBytes tb) (tagMismatch s 3)
    let n := vlEff i.c [ta]
    let el := srcElems i.c i.ops i.t0 n ⟨opA .vsrc a, tagANY⟩
    let ix := srcElems i.c i.ops i.t0 n ⟨opB .vsrc b, tagANY⟩
    let act := activeList i.c k n
    let data := (List.zipWith (fun x (w : Word) => x && decide (w.toNat < n)) act ix).countP id
    let j := { i with t0 := ta, s := curSat i.s 0 (immSats i.t0 (src.take 1) * data + immSats i.t0 (src.drop 1) * act.countP id) }
    pure (retire (permuted j k d n el (ix.map (fun w => some w.toNat)))))

def execVxch (k : Bool) (dist : BitVec 4) (d a : Spec) (s : State) : Out :=
  finish s (do
    let src : List VSrc := [⟨opA .vsrc a, tagANY⟩]
    let i ← vecStart s [opD .vreg d, opA .vsrc a] (.ok ()) (.ok ()) true src
    need (2 ^ dist.toNat < vlmax i.c (elemBytes i.t0)) (illegalOperand s 5)
    let n := vlEff i.c [i.t0]
    let el := srcElems i.c i.ops i.t0 n ⟨opA .vsrc a, tagANY⟩
    pure (retire (permuted i k d n el ((List.range n).map (fun j => some (j ^^^ 2 ^ dist.toNat))))))

/-- The slides; `pick` gives the source index of element `i` for a distance. -/
def vslide (s : State) (k : Bool) (d a b : Spec) (pick : Nat → Nat → Option Nat) : Out :=
  finish s (do
    let src : List VSrc := [⟨opA .vsrc a, tagANY⟩]
    let i ← vecStart s [opD .vreg d, opA .vsrc a, opB .ssrc b] (.ok ()) (.ok ()) true src
    let n := vlEff i.c [i.t0]
    let el := srcElems i.c i.ops i.t0 n ⟨opA .vsrc a, tagANY⟩
    pure (retire (permuted i k d n el ((List.range n).map (pick (valAt i.vals 2).toNat)))))

def execVslideUp (k : Bool) (d a b : Spec) (s : State) : Out :=
  vslide s k d a b (fun n i => if n ≤ i then some (i - n) else none)
def execVslideDn (k : Bool) (d a b : Spec) (s : State) : Out := vslide s k d a b (fun n i => some (i + n))

/-! ### Reductions and scans (R143, R144) -/

/-- The operators of Table 6.8. -/
inductive RedOp where
  | add | min | max | and | or | xor
  deriving DecidableEq, Repr, Inhabited

def redAcc : RedOp → ETy → Bool
  | .add | .min | .max => tagIF
  | _ => tagANY

def redFun (op : RedOp) (t : ETy) (a b : Word) : Word :=
  elemMask t (match op with
    | .add => elAdd t a b
    | .min => elMin t a b
    | .max => elMax t a b
    | .and => a &&& b
    | .or => a ||| b
    | .xor => a ^^^ b)

/-- The identities of Table 6.8. -/
def redIdentity (op : RedOp) (t : ETy) : Word :=
  match op with
  | .add => if tyInt t then 0 else signBit t
  | .min => if tyInt t then (convert (fvOfRat (maxFinite t)) t).1 else BitVec.ofNat 64 (infBits t false)
  | .max => if tyInt t then (convert (fvOfRat (minFinite t)) t).1 else BitVec.ofNat 64 (infBits t true)
  | .and => elemMask t (BitVec.allOnes 64)
  | .or => 0
  | .xor => 0

def vred (s : State) (op : RedOp) (k : Bool) (d a : Spec) : Out :=
  finish s (do
    let src : List VSrc := [⟨opA .vsrc a, redAcc op⟩]
    let i ← vecStart s [opD .redDst d, opA .vsrc a] (.ok ()) (.ok ()) true src
    let n := vlEff i.c [i.t0]
    let act := activeList i.c k n
    let el := srcElems i.c i.ops i.t0 n ⟨opA .vsrc a, redAcc op⟩
    let leaves := List.zipWith (fun a w => if a then some w else none) act el
    let r := (tree (redFun op i.t0) leaves).getD (redIdentity op i.t0)
    let s1 := curPm i.s 8 (act.countP id)
    pure (retire (match d with
      | .v j => setVreg s1 j ⟨i.t0, putElems i.t0 (vregOf i.c d).data [some r]⟩
      | _ => writeDst s1 d (scalarOf i.t0 r))))

def execVredAdd (k : Bool) (d a : Spec) (s : State) : Out := vred s .add k d a
def execVredMin (k : Bool) (d a : Spec) (s : State) : Out := vred s .min k d a
def execVredMax (k : Bool) (d a : Spec) (s : State) : Out := vred s .max k d a
def execVredAnd (k : Bool) (d a : Spec) (s : State) : Out := vred s .and k d a
def execVredOr (k : Bool) (d a : Spec) (s : State) : Out := vred s .or k d a
def execVredXor (k : Bool) (d a : Spec) (s : State) : Out := vred s .xor k d a

/-- The running values of a scan over leaves; none for an inactive element. -/
def scanList (f : Word → Word → Word) : Word → List (Option Word) → List (Option Word)
  | _, [] => []
  | r, none :: l => none :: scanList f r l
  | r, some w :: l => some (f r w) :: scanList f (f r w) l

def vscan (s : State) (op : RedOp) (k : Bool) (d a : Spec) : Out :=
  finish s (do
    let src : List VSrc := [⟨opA .vsrc a, redAcc op⟩]
    let i ← vecStart s [opD .vreg d, opA .vsrc a] (.ok ()) (.ok ()) true src
    let n := vlEff i.c [i.t0]
    let el := srcElems i.c i.ops i.t0 n ⟨opA .vsrc a, redAcc op⟩
    let leaves := List.zipWith (fun a w => if a then some w else none) (activeList i.c k n) el
    let vals := (scanList (redFun op i.t0) (redIdentity op i.t0) leaves).map (Option.map (fun w => ((w, 0) : Conv)))
    pure (retire (vecWrite i d i.t0 vals 0 0)))

def execVscanAdd (k : Bool) (d a : Spec) (s : State) : Out := vscan s .add k d a
def execVscanMin (k : Bool) (d a : Spec) (s : State) : Out := vscan s .min k d a
def execVscanMax (k : Bool) (d a : Spec) (s : State) : Out := vscan s .max k d a
def execVscanAnd (k : Bool) (d a : Spec) (s : State) : Out := vscan s .and k d a
def execVscanOr (k : Bool) (d a : Spec) (s : State) : Out := vscan s .or k d a
def execVscanXor (k : Bool) (d a : Spec) (s : State) : Out := vscan s .xor k d a

/-! ### Compress and top-k (R145, R146) -/

/-- An element with its index and its key. -/
structure Ranked where
  ix : Nat
  pat : Word
  key : FV

/-- `a` ranks above `b`: NaN above every number, then the larger key. -/
def ranksAbove (a b : FV) : Bool := (fvIsNaN a && !fvIsNaN b) || fvLt b a

/-- Puts an element into a ranking of elements with higher indices, behind those that rank above it. -/
def rankInsert (x : Ranked) : List Ranked → List Ranked
  | [] => [x]
  | y :: r => if ranksAbove y.key x.key then y :: rankInsert x r else x :: y :: r

/-- Largest first; equal keys by the lower index. -/
def rankList (l : List Ranked) : List Ranked := l.foldr rankInsert []

def rankedOf (t : ETy) (key : FV → FV) (base : Nat) (el : List Word) : List Ranked :=
  el.zipIdx.map (fun e => ⟨base + e.2, e.1, key (valueOf t e.1)⟩)

/-- One group of `vcmpr`: the kept patterns in ascending index, and the mask. -/
def compressGroup (t : ETy) (keep : Nat) (el : List Word) : List Word × Nat :=
  let kept := ((rankList (rankedOf t fvAbs 0 el)).take keep).map Ranked.ix
  ((el.zipIdx.filter (fun e => kept.contains e.2)).map Prod.fst, kept.foldl (fun m i => m + 2 ^ i) 0)

/-- D and B name two registers (R352: the later position). -/
def twoRegisters (s : State) (d b : Spec) : Res Unit := need (d ≠ b) (illegalOperand s 3)

def execVcmpr (n : BitVec 2) (d a b : Spec) (s : State) : Out :=
  finish s (do
    let src : List VSrc := [⟨opA .vsrc a, tyNumeric⟩]
    let i ← vecStart s [opD .vreg d, opA .vsrc a, opB .vreg b] (do
      twoRegisters s d b
      need (n ≠ 3) (illegalOperand s 5)) (.ok ()) true src
    let len := vlEff i.c [i.t0]
    need (len % 32 = 0) (illegalOperand s 6)
    let el := srcElems i.c i.ops i.t0 len ⟨opA .vsrc a, tyNumeric⟩
    let groups := (List.range (len / 32)).map (fun g =>
      compressGroup i.t0 (4 * 2 ^ n.toNat) ((el.drop (32 * g)).take 32))
    let kept : List (Option Conv) := groups.flatMap (fun g => g.1.map (fun w => some (w, 0)))
    let masks : List (Option Word) := groups.map (fun g => some (BitVec.ofNat 64 g.2))
    let s1 := vecWrite { i with s := curPm i.s 8 (len - kept.length) } d i.t0 kept 0 0
    pure (retire (writeVreg s1 b ⟨.n32, putElems .n32 (vregOf i.c b).data masks⟩)))

/-- `vtopk` (R145, R146). VLeff is taken over the width of va alone, and not over vb's 32-bit indices too, which is the model's
choice (log entry 102). -/
def execVtopk (k : Bool) (d a b cc : Spec) (s : State) : Out :=
  finish s (do
    let src : List VSrc := [⟨opA .vsrc a, tyNumeric⟩]
    let i ← vecStart s [opD .vreg d, opA .vsrc a, opB .vreg b, opC .ssrc cc] (twoRegisters s d b) (.ok ()) true src
    let cnt := (valAt i.vals 3).toNat
    need (cnt ≤ vlmax i.c 4 && cnt ≤ vlmax i.c (elemBytes i.t0)) (illegalOperand s 6)
    let n := vlEff i.c [i.t0]
    let act := activeList i.c k n
    let el := srcElems i.c i.ops i.t0 n ⟨opA .vsrc a, tyNumeric⟩
    let cand := (rankedOf i.t0 id 0 el).filter (fun r => act.getD r.ix false)
    let top := (rankList cand).take cnt
    let pad := List.replicate (cnt - top.length) (some (0xFFFFFFFF : Word))
    let s1 := curPm i.s 8 (act.countP id)
    let s2 := writeVreg s1 d ⟨i.t0, putElems i.t0 (vregOf i.c d).data (top.map (fun r => some r.pat))⟩
    pure (retire (writeVreg s2 b
      ⟨.n32, putElems .n32 (vregOf i.c b).data (top.map (fun r => some (BitVec.ofNat 64 r.ix)) ++ pad)⟩)))

/-! ### Conversion and quantisation (R147 to R149) -/

/-- The exact quotient by a finite scale that is not zero; by any other scale the result is NaN (R148). -/
def fvQuot (a s : FV) : FV :=
  match s with
  | .fin _ q =>
    if q = 0 then .nan
    else match a with
      | .nan => .nan
      | .inf n => .inf (n != decide (q < 0))
      | .fin n p => .fin (n != decide (q < 0)) (p / q)
  | _ => .nan

/-- A conversion of each element through an exact function. -/
def vconvert (s : State) (ty : ETy) (k : Bool) (ops : List Opnd) (d a : Spec) (acc tyOk : ETy → Bool)
    (f : List Word → FV → FV) : Out :=
  finish s (do
    let i ← vecStart s (opD .vreg d :: ops) (need (tyOk ty) (illegalOperand s 5)) (.ok ()) true [⟨opA .vsrc a, acc⟩]
    need (ty ≠ .cbx) (tagMismatch s 5)
    let n := vlEff i.c [i.t0, ty]
    let el := srcElems i.c i.ops i.t0 n ⟨opA .vsrc a, acc⟩
    let vals := pickActive (activeList i.c k n) (el.map (fun w => convert (f i.vals (valueOf i.t0 w)) ty))
    pure (retire (vecWrite i d ty vals 0 0)))

def execVcvt (t : BitVec 4) (k : Bool) (d a : Spec) (s : State) : Out :=
  vconvert s (tyOfCode t) k [opA .vsrc a] d a tyNumeric (fun t => t ≠ .none && t ≠ .reserved) (fun _ x => x)

def execVqnt (t : BitVec 4) (k : Bool) (d a b : Spec) (s : State) : Out :=
  vconvert s (tyOfCode t) k [opA .vsrc a, opB .ssrc b] d a tagFLT
    (fun t => t = .i8 || t = .n8 || t = .i16 || t = .f8e4m3 || t = .f8e5m2 || t = .f4e2m1)
    (fun v x => fvQuot x (f32Src b (valAt v 2)))

def execVdq (t : BitVec 4) (k : Bool) (d a b : Spec) (s : State) : Out :=
  vconvert s (tyOfCode t) k [opA .vsrc a, opB .ssrc b] d a tyNumeric tagFLT
    (fun v x => fvMul x (f32Src b (valAt v 2)))

/-! ### The lookup fallback (R150 to R152) -/

/-- An entry of a codebook slot (R279): signed 8-bit integer `i` of 16. -/
def codeEntry (c : Codebook) (i : Nat) : Int := (c.c.extractLsb' (8 * i) 8 : BitVec 8).toInt

/-- Table entry `t` of a group of activations (R32): Σ a[j] × c[idx_j(t)]. -/
def groupEntry (book : Codebook) (acts : List Int) (t : Nat) : Int :=
  let b := book.b.toNat
  (acts.zipIdx.map (fun e => e.1 * codeEntry book (bitsOf t (b * e.2) b))).foldl (· + ·) 0

def slotOfCore (s : State) (n : Nat) : Codebook := (dieAt s (dieOfSlot s.cur.slot)).cb.getD (n % 64) Codebook.reset

/-- The tag of the D register is required to be `t` (R150, R151). -/
def dTag (s : State) (d : Spec) (t : ETy) : Res Unit := need ((vregOf (curCtx s) d).tag = t) (tagMismatch s 1)

/-- SatInt32 as a pattern with its count (R41). -/
def satWord (v : Int) : Conv := let r := satInt32 v; (wrap64 r.1, r.2)

def execVlutG (g : BitVec 4) (k : Bool) (d a b cc : Spec) (s : State) : Out :=
  finish s (do
    let src : List VSrc := [⟨opA .vsrc a, fun t => t = .cbx⟩, ⟨opB .vsrc b, fun t => t = .i8⟩]
    let i ← vecStart s (opD .vreg d :: src.map VSrc.op ++ [opC .ssrc cc]) (need (g ≠ 0) (illegalOperand s 5))
      (dTag s d .i32) false src
    let c := (valAt i.vals 3).toNat
    let book := slotOfCore s (c % 64)
    let e0 := bitsOf c 16 16
    let bits := book.b.toNat * g.toNat
    need (bitsOf c 6 10 = 0 && c < 2 ^ 32) (illegalOperand s 6)
    need (bits ≤ 8 && e0 + g.toNat ≤ vlmax i.c 1) (illegalOperand s 6)
    let n := vlEff i.c [.i32]
    let ix := srcElems i.c i.ops i.t0 n ⟨opA .vsrc a, fun t => t = .cbx⟩
    let acts := ((srcElems i.c i.ops i.t0 (e0 + g.toNat) ⟨opB .vsrc b, fun t => t = .i8⟩).drop e0).map (intOf .i8)
    let old := elemsOf .i32 n (vregOf i.c d).data
    let vals := List.zipWith (fun o t => satWord (intOf .i32 o + groupEntry book acts (t.toNat % 2 ^ bits))) old ix
    pure (retire (vecWrite i d .i32 (pickActive (activeList i.c k n) vals) 2 0)))

def execVlutJ (k : Bool) (d a : Spec) (s : State) : Out :=
  finish s (do
    let src : List VSrc := [⟨opA .vsrc a, fun t => t = .i32⟩]
    let i ← vecStart s (opD .vreg d :: src.map VSrc.op) (.ok ()) (dTag s d .i64) true src
    let n := vlEff i.c [.i64]
    let el := srcElems i.c i.ops i.t0 n ⟨opA .vsrc a, fun t => t = .i32⟩
    let old := elemsOf .i64 n (vregOf i.c d).data
    let vals := List.zipWith (fun o w => ((o + wrap64 (intOf .i32 w), 0) : Conv)) old el
    pure (retire (vecWrite i d .i64 (pickActive (activeList i.c k n) vals) 0 0)))

def execVlutY (k : Bool) (d a b cc : Spec) (s : State) : Out :=
  finish s (do
    let acc : ETy → Bool := fun t => t = .i32 || t = .i64
    let src : List VSrc := [⟨opA .vsrc a, acc⟩]
    let i ← vecStart s [opD .vreg d, opA .vsrc a, opB .ssrc b, opC .ssrc cc] (.ok ()) (.ok ()) true src
    let n := vlEff i.c [i.t0, .f32]
    let book := slotOfCore s (valAt i.vals 3).toNat
    let S := f32Val (f32Of (fvMul (f32Src b (valAt i.vals 2)) (f32Val (book.scale.zeroExtend 64))))
    let el := srcElems i.c i.ops i.t0 n ⟨opA .vsrc a, acc⟩
    let vals := el.map (fun w =>
      let r := satInt32 (intOf i.t0 w)
      ((f32Of (fvMul (fvOfInt r.1) S), r.2) : Conv))
    pure (retire (vecWrite i d .f32 (pickActive (activeList i.c k n) vals) 2 0)))

end Sys2Proof.Machine
end

