-- ==== Sys2Proof/Machine/VecMem.lean ====
section
/-!
DEFINITION. The vector loads and stores, gather, scatter, first-fault loads and fetch-add-scan (R187 to R195).
-/

namespace Sys2Proof.Machine

/-- The effective address of format F-M (R176). -/
def effAddr (a b : Word) (scale : Nat) (off : BitVec 24) : Word :=
  a + b * BitVec.ofNat 64 scale + off.signExtend 64

/-! ### Regions of tiles (R208, R308) -/

/-- Bytes of a row of `n` elements of a type (R308, R30). -/
def rowBytesOf (t : ETy) (n : Nat) : Nat := if t = .f4e2m1 then n / 2 else n * elemBytes t

def tileRowBytes (t : Tile) : Nat := rowBytesOf t.ty t.rlen

/-- Significand planes, exponent planes, NaN and infinity planes of a B type (Table 9.2). -/
def planeCounts : ETy → Nat × Nat × Nat × Nat
  | .f4e2m1 => (2, 2, 0, 0)
  | .f8e5m2 => (3, 5, 1, 1)
  | .f8e4m3 => (4, 4, 1, 0)
  | .bf16 => (8, 8, 1, 1)
  | .i8 => (8, 0, 0, 0)
  | _ => (0, 0, 0, 0)

def planesPerBlock (t : ETy) : Nat := let p := planeCounts t; p.1 + p.2.1 + 1 + p.2.2.1 + p.2.2.2

/-- Words in a plane: 32, or N in a sparse tile (R208). -/
def planeWords (sn : BitVec 2) : Nat := if sn = 0 then 32 else 2 * 2 ^ sn.toNat

/-- BlockBytes (Table 9.2). -/
def blockBytes (t : ETy) (sn : BitVec 2) (mx : Bool) : Nat :=
  4 * planesPerBlock t * planeWords sn + (if sn = 0 then 0 else 128) + (if mx then 32 else 0)

/-- Size of a tile's region (R308). -/
def tileSize (t : Tile) : Nat :=
  if t.pf then t.rlen / 32 * blockBytes t.ty t.sn t.mx
  else t.rows * tileRowBytes t + (if t.mx then t.rows * (t.rlen / 32) else 0)

def tilePa (core : Nat) (t : Tile) : Nat := scratchOf core + t.base

/-! ### Element accesses -/

/-- One element access: its index, its address, and what the checks found. -/
structure ElAcc where
  i : Nat
  va : Word
  hit : Hit

/-- The checks of element accesses in ascending order (R177), each of `n` bytes; the first fault is the instruction's. -/
def checkElems (n : Nat) (need : Need) : State → List (Nat × Word) → Res (State × List ElAcc)
  | s, [] => .ok (s, [])
  | s, (i, va) :: r => do
    if va.toNat % n ≠ 0 then misaligned va i
    else do
      let (s1, h) ← access s va i need
      let (s2, l) ← afterWalk (walked va.toNat i need) (checkElems n need s1 r)
      pure (s2, ⟨i, va, h⟩ :: l)

/-- A VECTOR LOAD OF ROWS IN THE MAKING (R153): bytes that an `mst` or an `lkac` of the same hart writes. Without the
pair's chaining bit it waits for the complete result; with the bit, for the rows of an `lkac` not drained yet. Rows count as
formed once no bank of the `lkac` can fault any more: a consumer takes no effect of one that does (R154). -/
def chainHolds (s : State) (pa n : Nat) : Bool :=
  let c := curCtx s
  let chain := (partAt s c.part).chain
  let reads (t : Tile) (formed : Nat) : Bool :=
    let b := tilePa (curCore s) t
    decide (b + formed < pa + n) && decide (pa < b + tileSize t)
  let mine (i : Issuer) : Bool := i.ctx = curKey s && i.task = c.task && i.iter = c.iter
  (!chain.getLsbD 0 && s.mx.any (fun e => e.2.ctx = curKey s &&
    (match e.2.kind with | .mst _ t => reads t 0 | _ => false))) ||
  s.bankCmds.any (fun e => mine e.2.issuer &&
    (match e.2.kind with
      | .lkac _ _ t =>
        let sure : Bool := !e.2.faulted && !e.2.aborted &&
          !s.blus.any (fun b => b.2.cmd = some e.1 && !(b.2.aEnded && b.2.xEnded))
        reads t (if chain.getLsbD 4 && sure then e.2.drained * tileRowBytes t else 0)
      | _ => false))

def chainWait (s : State) (h : Hit) (n : Nat) : Res Unit :=
  match h.tgt with
  | .scratch pa =>
    if chainHolds s pa n then .error (.wait (fun t => modSeq t (fun q => { q with why := .tile }))) else .ok ()
  | _ => .ok ()

/-- The data of checked element loads, in ascending order. -/
def loadEach (n : Nat) : State → List ElAcc → Res (State × List (Nat × List Byte))
  | s, [] => .ok (s, [])
  | s, e :: r => do
    chainWait s e.hit n
    let (s1, b) ← loadBytes s e.hit e.va e.i n true
    let (s2, l) ← loadEach n s1 r
    pure (s2, (e.i, b) :: l)

/-- The data of checked element loads; a fault leaves what the walks of all of them left. -/
def loadElems (n : Nat) (s : State) (acc : List ElAcc) : Res (State × List (Nat × List Byte)) :=
  afterWalk (fun t => acc.foldl (fun t e => walked e.va.toNat e.i needR t) t) (loadEach n s acc)

/-- Two targets in the same window. -/
def sameWindow : Target → Target → Bool
  | .device _, .device _ => true
  | .scratch _, .scratch _ => true
  | .host _, .host _ => true
  | .own _, .own _ => true
  | .fabric n _, .fabric m _ => n = m
  | _, _ => false

/-- Adjacent stores of one page kind become one run of bytes. -/
def coalesce : List (Hit × List Byte) → List (Hit × List Byte)
  | [] => []
  | (h, b) :: r =>
    match coalesce r with
    | (h2, b2) :: r2 =>
      if sameWindow h.tgt h2.tgt && h.leaf = h2.leaf && targetPa h2.tgt = targetPa h.tgt + b.length &&
          lineOf (targetPa h2.tgt) = lineOf (targetPa h.tgt)
      then (h, b ++ b2) :: r2 else (h, b) :: (h2, b2) :: r2
    | [] => [(h, b)]

def storeRuns (s : State) : List (Hit × List Byte) → State
  | [] => s
  | (h, b) :: r => storeRuns (storeBytes s h .v b) r

/-- Elements of a register after a load: those loaded, the others as they were. -/
def loadedVals (n : Nat) (l : List (Nat × Word)) : List (Option Word) :=
  (List.range n).map (fun i => (l.find? (fun e => e.1 = i)).map Prod.snd)

/-- The destination of a vector load: a v register keeps what was not loaded; a w entry has zero bits there. -/
def writeLoad (s : State) (c : Ctx) (d : Spec) (t : ETy) (vals : List (Option Word)) : State :=
  match d with
  | .v i => setVreg s i ⟨t, putElems t (vregOf c d).data vals⟩
  | .w i => modCur s (fun x =>
      setW x i (wOf x i ++ [⟨t, putElems t (List.replicate (1024 * c.slices) 0) (vals.map (fun v => some (v.getD 0)))⟩]))
  | _ => s

/-- Elements a vector access covers: VLeff on X; on A the rows of sw.rl (R190). -/
def vecCount (s : State) (c : Ctx) (ts : List ETy) : Nat :=
  match s.cur.side with
  | .x => vlEff c ts
  | .a => min c.a.rl.toNat (vlmax c (ts.foldl (fun m t => max m (elemBytes t)) 1))

/-- M[0] = 1 on A faults (R190). -/
def maskOnX (s : State) (k : Bool) : Res Unit := need (!(k && s.cur.side = .a)) (illegalOperand s 5)

/-- A type a strided, gathered or first-fault access can name. -/
def memType (t : ETy) : Bool := t ≠ .none && t ≠ .reserved && t ≠ .f4e2m1

/-- The values of loaded elements. -/
def elemVals (l : List (Nat × List Byte)) : List (Nat × Word) := l.map (fun e => (e.1, BitVec.ofNat 64 (leNat e.2)))

/-- The bytes in memory of a unit-stride access: for f4e2m1 two elements to a byte, else one element each; by the index
of their first element and their address (R188). -/
def unitAddrs (t : ETy) (ea : Word) (n : Nat) : List (Nat × Word) :=
  if t = .f4e2m1 then (List.range ((n + 1) / 2)).map (fun i => (2 * i, ea + BitVec.ofNat 64 i))
  else (List.range n).map (fun i => (i, ea + BitVec.ofNat 64 (i * elemBytes t)))

/-- Loaded f4e2m1 bytes as elements. -/
def unpackNibbles (l : List (Nat × Word)) : List (Nat × Word) :=
  l.flatMap (fun e => [(e.1, e.2 &&& 15#64), (e.1 + 1, BitVec.ushiftRight e.2 4 &&& 15#64)])

def execVld (t : BitVec 4) (d a b : Spec) (off : BitVec 24) (s : State) : Out :=
  finish s (do
    let ty := tyOfCode t
    let i ← vecStart s [opD .vldst d, opA .ssrc a, opB .ssrc b] (.ok ()) (.ok ()) true []
    let w := elemBytes ty
    let ea := effAddr (valAt i.vals 1) (valAt i.vals 2) w off
    let n := vecCount s i.c [ty]
    if n = 0 then pure (retire (writeLoad i.s i.c d ty []))
    else do
      mayAccess s .v
      need (ea.toNat % w = 0) (misaligned ea 0)
      let (s1, acc) ← checkElems w needR i.s (unitAddrs ty ea n)
      let (s2, l) ← loadElems w s1 acc
      let vals := if ty = .f4e2m1 then unpackNibbles (elemVals l) else elemVals l
      pure (retire (curPm (writeLoad (dropAnswers s2) i.c d ty (loadedVals n vals)) 8 n)))

/-- f4e2m1 elements packed two to a byte (R30). -/
def packNibbles : List Word → List Byte
  | [] => []
  | [a] => [(a &&& 15#64).truncate 8]
  | a :: b :: r => ((a &&& 15#64) ||| ((b &&& 15#64) <<< 4)).truncate 8 :: packNibbles r

/-- The last byte of an odd f4e2m1 store: bits [3:0] by an atomic read-modify-write, made at once in this package, and at
its home elsewhere (R188). -/
def storeNibble (s : State) (e : ElAcc) (v : Word) : Res State :=
  let low : Byte := (v &&& 15#64).truncate 8
  let send : Res State :=
    .ok (issueWts (dropAhead s (targetPa e.hit.tgt) 1) { curWt s .v e.hit with kind := .half low 0 }
      [(targetPa e.hit.tgt, [])])
  match e.hit.tgt with
  | .host _ => send
  | .fabric _ _ => send
  | _ => do
    let (s1, _) ← rmw s e.hit e.va 1 .swap v 0 (fun old => some ((old &&& 0xF0#64) ||| low.zeroExtend 64))
    pure s1

def execVst (t : BitVec 4) (d a b : Spec) (off : BitVec 24) (s : State) : Out :=
  finish s (do
    let ty := tyOfCode t
    let i ← vecStart s [opD .vreg d, opA .ssrc a, opB .ssrc b] (.ok ()) (dTag s d ty) true []
    let w := elemBytes ty
    let ea := effAddr (valAt i.vals 1) (valAt i.vals 2) w off
    let n := vlEff i.c [ty]
    if n = 0 then pure (retire i.s)
    else do
      mayAccess s .v
      need (ea.toNat % w = 0) (misaligned ea 0)
      let odd : Bool := ty = .f4e2m1 && n % 2 = 1
      let (s1, acc) ← checkElems w needW i.s (unitAddrs ty ea n)
      let el := elemsOf ty n (vregOf i.c d).data
      let bytes := if ty = .f4e2m1 then (packNibbles el).map (fun x => [x]) else el.map (fun x => leBytes w x.toNat)
      let whole := if odd then acc.dropLast else acc
      let s2 := storeRuns s1 (coalesce (List.zipWith (fun e x => (e.hit, x)) whole bytes))
      let s3 ← (match acc.getLast? with
        | some e => if odd then storeNibble s2 e (el.getLastD 0) else pure s2
        | none => pure s2)
      pure (retire (curPm (dropAnswers s3) 8 n)))

/-- Active elements of an access with their addresses (R128, R189, R191, R194). -/
def activeAddrs (act : List Bool) (f : Nat → Word) : List (Nat × Word) :=
  ((List.range act.length).filter (fun i => act.getD i false)).map (fun i => (i, f i))

/-- A vector access issues as `mayAccess` says where it has an active element; without one it accesses nothing (R206). -/
def mayAccessAny (s : State) (addrs : List (Nat × Word)) : Res Unit :=
  if addrs.isEmpty then .ok () else mayAccess s .v

/-- On A every element is active; on X R128 decides. -/
def accActive (s : State) (c : Ctx) (k : Bool) (n : Nat) : List Bool :=
  match s.cur.side with
  | .x => activeList c k n
  | .a => List.replicate n true

def stridedAddr (a b : Word) (i : Nat) : Word := a + BitVec.ofNat 64 i * b

def execVlds (t : BitVec 4) (k : Bool) (d a b : Spec) (s : State) : Out :=
  finish s (do
    let ty := tyOfCode t
    let i ← vecStart s [opD .vldst d, opA .ssrc a, opB .ssrc b] (do
      need (memType ty) (illegalOperand s 5)
      maskOnX s k) (.ok ()) true []
    let n := vecCount s i.c [ty]
    let addrs := activeAddrs (accActive s i.c k n) (stridedAddr (valAt i.vals 1) (valAt i.vals 2))
    mayAccessAny s addrs
    let (s1, acc) ← checkElems (elemBytes ty) needR i.s addrs
    let (s2, l) ← loadElems (elemBytes ty) s1 acc
    pure (retire (curPm (writeLoad (dropAnswers s2) i.c d ty (loadedVals n (elemVals l))) 8 acc.length)))

/-- Checked stores of elements in ascending order. -/
def storeElems (s : State) (ty : ETy) (acc : List ElAcc) (el : List Word) : State :=
  storeRuns s (acc.map (fun e => (e.hit, leBytes (elemBytes ty) (valAt el e.i).toNat)))

def execVsts (t : BitVec 4) (k : Bool) (d a b : Spec) (s : State) : Out :=
  finish s (do
    let ty := tyOfCode t
    let i ← vecStart s [opD .vreg d, opA .ssrc a, opB .ssrc b] (do
      need (memType ty) (illegalOperand s 5)
      maskOnX s k) (dTag s d ty) true []
    let n := vlEff i.c [ty]
    let addrs := activeAddrs (activeList i.c k n) (stridedAddr (valAt i.vals 1) (valAt i.vals 2))
    mayAccessAny s addrs
    let (s1, acc) ← checkElems (elemBytes ty) needW i.s addrs
    pure (retire (curPm (storeElems s1 ty acc (elemsOf ty n (vregOf i.c d).data)) 8 acc.length)))

/-! ### Gather and scatter (R191 to R193) -/

/-- The common start of gather and scatter: the inputs, the element count and the active elements' addresses. -/
def gatherStart (s : State) (t : BitVec 4) (sc : BitVec 2) (k : Bool) (d a b : Spec) (dCheck : Res Unit) :
    Res (VIn × Nat × List (Nat × Word)) := do
  let ty := tyOfCode t
  let i ← vecStart s [opD .vreg d, opA .ssrc a, opB .vreg b] (need (memType ty) (illegalOperand s 5)) dCheck true []
  let r := vregOf i.c b
  need (r.tag = .i32 || r.tag = .n32 || r.tag = .i64) (tagMismatch s 3)
  let n := vlEff i.c [ty, r.tag]
  let offs := elemsOf r.tag n r.data
  let addr : Nat → Word := fun j => valAt i.vals 1 + wrap64 (intOf r.tag (valAt offs j) * 2 ^ sc.toNat)
  let addrs := activeAddrs (activeList i.c k n) addr
  mayAccessAny s addrs
  pure (i, n, addrs)

/-- The loads of a gather whose addresses are checked. -/
def gatherLoad (ty : ETy) (d : Spec) (i : VIn) (n : Nat) (s1 : State) (acc : List ElAcc) : Res State := do
  let (s2, l) ← loadElems (elemBytes ty) s1 acc
  pure (retire (curPm (writeLoad (dropAnswers s2) i.c d ty (loadedVals n (elemVals l))) 8 acc.length))

def execVgth (t : BitVec 4) (sc : BitVec 2) (k : Bool) (d a b : Spec) (s : State) : Out :=
  finish s (do
    let (i, n, addrs) ← gatherStart s t sc k d a b (.ok ())
    let (s1, acc) ← checkElems (elemBytes (tyOfCode t)) needR i.s addrs
    gatherLoad (tyOfCode t) d i n s1 acc)

/-- The fault one element access of `n` bytes would take. -/
def elemFault (s : State) (n : Nat) (need : Need) (e : Nat × Word) : Option FaultReq :=
  match checkElems n need s [e] with
  | .error (.fault f) => some f
  | .error (.walkFault f _) => some f
  | _ => none

/-- What the check of one element waits for. -/
def elemWait (s : State) (n : Nat) (need : Need) (e : Nat × Word) : Option (State → State) :=
  match checkElems n need s [e] with
  | .error (.wait g) => some g
  | _ => none

/-- A unit that a table entry of a level covers (R359). -/
def probeUnit (f : FaultReq) : BitVec 2 × Word :=
  let bits := if f.lvl = 3 then 39 else pageBits f.lvl.toNat
  (f.lvl, BitVec.ofNat 64 (f.addr.toNat / 2 ^ bits * 2 ^ bits % 2 ^ 48))

/-- The distinct units in the order they are first named (R192). -/
def distinctUnits (l : List (BitVec 2 × Word)) : List (BitVec 2 × Word) :=
  l.foldl (fun acc u => if acc.contains u then acc else acc ++ [u]) []

def execVgthProbe (t : BitVec 4) (sc : BitVec 2) (k : Bool) (d a b : Spec) (s : State) : Out :=
  finish s (do
    let (i, n, addrs) ← gatherStart s t sc k d a b (.ok ())
    let w := elemBytes (tyOfCode t)
    let faults := addrs.filterMap (elemFault s w needR)
    let left : State → State := fun t => addrs.foldl (fun t e => walked e.2.toNat e.1 needR t) t
    match addrs.findSome? (elemWait s w needR), faults with
    | some g, _ => .error (.wait g)
    | none, f :: _ =>
      if f.code = 0x05 then
        let units := distinctUnits ((faults.filter (fun f => f.code = 0x05)).map probeUnit)
        .error (.walkFault { f with probe := some (units.take 16, decide (16 < units.length)) } left)
      else .error (.walkFault f left)
    | none, [] => do
      let (s1, acc) ← checkElems w needR i.s addrs
      gatherLoad (tyOfCode t) d i n s1 acc)

def execVsct (t : BitVec 4) (sc : BitVec 2) (k : Bool) (d a b : Spec) (s : State) : Out :=
  finish s (do
    let ty := tyOfCode t
    let (i, n, addrs) ← gatherStart s t sc k d a b (dTag s d ty)
    let (s1, acc) ← checkElems (elemBytes ty) needW i.s addrs
    pure (retire (curPm (storeElems s1 ty acc (elemsOf ty n (vregOf i.c d).data)) 8 acc.length)))

/-! ### First-fault loads (R194) -/

/-- Loads in ascending order up to the first element after the first active one that would fault: the loaded elements and
that element's index. -/
def firstFault (n : Nat) : State → List (Nat × Word) → Bool → Res (State × List (Nat × List Byte) × Option Nat)
  | s, [], _ => .ok (s, [], none)
  | s, e :: r, first =>
    let one : Res (State × List (Nat × List Byte)) := do
      let (s1, acc) ← checkElems n needR s [e]
      loadElems n s1 acc
    match one with
    | .ok (s1, l) => do
      let (s2, m, j) ← firstFault n s1 r false
      pure (s2, l ++ m, j)
    | .error (.fault f) => if first then .error (.fault f) else .ok (s, [], some e.1)
    | .error (.walkFault f g) => if first then .error (.walkFault f g) else .ok (g s, [], some e.1)
    | .error e => .error e

/-- The length a first-fault load shortens: sw.vl on X, A's sw.rl on A. -/
def shorten (s : State) (j : Nat) : State :=
  match s.cur.side with
  | .x => modCur s (fun c => { c with vl := BitVec.ofNat 64 j })
  | .a => modSeq s (fun q => { q with rl := BitVec.ofNat 64 j })

/-- `vldff`. With no active element a misaligned base is no fault: no access is made (log entry 78). -/
def execVldff (t : BitVec 4) (k : Bool) (d a b : Spec) (s : State) : Out :=
  finish s (do
    let ty := tyOfCode t
    let i ← vecStart s [opD .vldst d, opA .ssrc a, opB .ssrc b] (do
      need (memType ty) (illegalOperand s 5)
      maskOnX s k) (.ok ()) true []
    let w := elemBytes ty
    let n := vecCount s i.c [ty]
    let base := valAt i.vals 1 + valAt i.vals 2
    let addrs := activeAddrs (accActive s i.c k n) (fun j => base + BitVec.ofNat 64 (j * w))
    mayAccessAny s addrs
    need (addrs.isEmpty || base.toNat % w = 0) (misaligned base 0)
    let (s1, l, j) ← firstFault w i.s addrs true
    let s2 := curPm (writeLoad (dropAnswers s1) i.c d ty (loadedVals n (elemVals l))) 8 l.length
    pure (retire (match j with | some j => shorten s2 j | none => s2)))

/-! ### Fetch-add-scan (R195) -/

/-- The exclusive prefixes of the active elements, and the final sum. -/
def prefixes (f : Word → Word → Word) : Word → List (Option Word) → List (Option Word) × Word
  | r, [] => ([], r)
  | r, none :: l => let p := prefixes f r l; (none :: p.1, p.2)
  | r, some w :: l => let p := prefixes f (f r w) l; (some r :: p.1, p.2)

def execVfas (t : BitVec 4) (k : Bool) (d a b : Spec) (s : State) : Out :=
  finish s (do
    let ty := tyOfCode t
    let i ← vecStart s [opD .vreg d, opA .ssrc a, opB .vreg b]
      (need (ty = .i32 || ty = .n32 || ty = .i64) (illegalOperand s 5)) (.ok ()) true []
    need ((vregOf i.c b).tag = ty) (tagMismatch s 3)
    mayAccess s .v
    let w := elemBytes ty
    let va := valAt i.vals 1
    need (va.toNat % w = 0) (misaligned va 0)
    let (s1, h) ← access i.s va 0 needRW
    let n := vlEff i.c [ty]
    let act := activeList i.c k n
    let leaves := List.zipWith (fun a x => if a then some x else none) act (elemsOf ty n (vregOf i.c b).data)
    let add : Word → Word → Word := fun r x => elemMask ty (r + x)
    let sum := (prefixes add 0 leaves).2
    let (s2, old) ← (if act.any id then rmw s1 h va w .add sum 0 (fun old => some (add old sum))
      else do
        let (s2, bs) ← loadBytes s1 h va 0 w true
        pure (s2, BitVec.ofNat 64 (leNat bs)))
    let vals := (prefixes add (elemMask ty old) leaves).1
    pure (retire (curPm (writeVreg (dropAnswers s2) d ⟨ty, putElems ty (vregOf i.c d).data vals⟩) 8 (act.countP id))))

end Sys2Proof.Machine
end

