-- ==== Sys2Proof/Machine/ScalarMem.lean ====
section
/-!
DEFINITION. Scalar loads and stores, atomics, facet reductions, prefetch, write-back and the fence (R180 to R186, R206),
with the home's grant of a facet partial (R239 to R243).
-/

namespace Sys2Proof.Machine

/-! ### Loads and stores (R180) -/

/-- A scalar load; `ext` extends the bytes read to 64 bits, and `ep` is the eviction priority its variant names (R180). -/
def scalarLoad (s : State) (z : BitVec 2) (d a b : Spec) (off : BitVec 24) (ext : Nat → Word → Word) (ep : Option Nat) : Out :=
  finish s (do
    let n := 2 ^ z.toNat
    let (s1, v) ← gate s [opD .sdst d, opA .ssrc a, opB .ssrc b]
    mayAccess s .s
    let ea := effAddr (valAt v 1) (valAt v 2) n off
    need (ea.toNat % n = 0) (misaligned ea 0)
    let (s2, h) ← access s1 ea 0 needR
    let (s3, bs) ← loadBytes s2 (h.keptAt ep) ea 0 n false
    pure (retire (writeDst (dropAnswers s3) d (ext n (BitVec.ofNat 64 (leNat bs))))))

def zeroExt (_ : Nat) (w : Word) : Word := w
def signExt (n : Nat) (w : Word) : Word := (w.truncate (8 * n) : BitVec (8 * n)).signExtend 64

def execLd (z : BitVec 2) (d a b : Spec) (off : BitVec 24) (s : State) : Out := scalarLoad s z d a b off zeroExt none
def execLdS (z : BitVec 2) (d a b : Spec) (off : BitVec 24) (s : State) : Out := scalarLoad s z d a b off signExt none
def execLdNt (z : BitVec 2) (d a b : Spec) (off : BitVec 24) (s : State) : Out := scalarLoad s z d a b off zeroExt (some 0)
def execLdKeep (z : BitVec 2) (d a b : Spec) (off : BitVec 24) (s : State) : Out := scalarLoad s z d a b off zeroExt (some 3)

/-- A scalar store; `ep` is the eviction priority its variant names. -/
def scalarStore (s : State) (z : BitVec 2) (d a b : Spec) (off : BitVec 24) (ep : Option Nat) : Out :=
  finish s (do
    let n := 2 ^ z.toNat
    let (s1, v) ← gate s [opD .ssrc d, opA .ssrc a, opB .ssrc b]
    mayAccess s .s
    let ea := effAddr (valAt v 1) (valAt v 2) n off
    need (ea.toNat % n = 0) (misaligned ea 0)
    let (s2, h) ← access s1 ea 0 needW
    pure (retire (storeBytes s2 (h.keptAt ep) .s (leBytes n (valAt v 0).toNat))))

def execSt (z : BitVec 2) (d a b : Spec) (off : BitVec 24) (s : State) : Out := scalarStore s z d a b off none
def execStNt (z : BitVec 2) (d a b : Spec) (off : BitVec 24) (s : State) : Out := scalarStore s z d a b off (some 0)
def execStKeep (z : BitVec 2) (d a b : Spec) (off : BitVec 24) (s : State) : Out := scalarStore s z d a b off (some 3)

/-! ### Atomics (R181, R182) -/

/-- An `amo`; `bt` converts its B operand. -/
def amo (s : State) (op : AtomicOp) (d a b : Spec) (cc : List Opnd) (sz : BitVec 1) : Out :=
  finish s (do
    let n := if sz = 1 then 8 else 4
    let (s1, v) ← gateWith s ([opD .sdst d, opA .ssrc a, opB .ssrc b] ++ cc)
      (need (!(op = .fadd && sz = 1)) (illegalOperand s 5))
    mayAccess s .s
    let va := valAt v 1
    need (va.toNat % n = 0) (misaligned va 0)
    let (s2, h) ← access s1 va 0 needRW
    let x := if op = .fadd then (typedSrc .f32 b (valAt v 2)).1 else valAt v 2
    let (s3, old) ← rmw s2 h va n op x (valAt v 3) (fun old => amoOp op n old x (valAt v 3))
    let r := if n = 4 && op ≠ .fadd then (old.truncate 32 : BitVec 32).signExtend 64 else old
    pure (retire (writeDst (dropAnswers s3) d r)))

def execAmoSwap (d a b : Spec) (sz : BitVec 1) (s : State) : Out := amo s .swap d a b [] sz
def execAmoCas (d a b cc : Spec) (sz : BitVec 1) (s : State) : Out := amo s .cas d a b [opC .ssrc cc] sz
def execAmoAdd (d a b : Spec) (sz : BitVec 1) (s : State) : Out := amo s .add d a b [] sz
def execAmoAnd (d a b : Spec) (sz : BitVec 1) (s : State) : Out := amo s .and d a b [] sz
def execAmoOr (d a b : Spec) (sz : BitVec 1) (s : State) : Out := amo s .or d a b [] sz
def execAmoXor (d a b : Spec) (sz : BitVec 1) (s : State) : Out := amo s .xor d a b [] sz
def execAmoMin (d a b : Spec) (sz : BitVec 1) (s : State) : Out := amo s .min d a b [] sz
def execAmoMax (d a b : Spec) (sz : BitVec 1) (s : State) : Out := amo s .max d a b [] sz
def execAmoMinu (d a b : Spec) (sz : BitVec 1) (s : State) : Out := amo s .minu d a b [] sz
def execAmoMaxu (d a b : Spec) (sz : BitVec 1) (s : State) : Out := amo s .maxu d a b [] sz
def execAmoFadd (d a b : Spec) (sz : BitVec 1) (s : State) : Out := amo s .fadd d a b [] sz

/-! ### Lines that leave a cache (R236, R243, R248) -/

/-- The holder slot of a core (R240). -/
def holderSlot (core : Nat) : Nat := core % 16

/-- A copy leaves a cache (R236): removed from exact tracking; in map mode silently. -/
def evictCopy (s : State) (line cache : Nat) : State :=
  let e := dirAt s line
  let sh := e.sharers.filter (· ≠ cache)
  let s1 := setCopies s line ((copiesOf s line).filter (· ≠ cache))
  if e.st = .shared && e.map.isNone then
    setDir s1 line { e with sharers := sh, st := if sh.isEmpty then .uncached else .shared }
  else s1

/-- A partial leaves its L1 and is parked (R243). -/
def parkPartial (s : State) (core line : Nat) : State :=
  match tabGet s.partials (partialKey core line) with
  | none => s
  | some p =>
    let e := dirAt s line
    let h := holderSlot core
    let q := match tabGet e.parked h with | some r => partialJoin r p | none => p
    setDir { s with partials := tabDel s.partials (partialKey core line) } line
      { e with holders := e.holders.filter (· ≠ core), parked := tabPut e.parked h q }

/-- A DISJ copy leaves its L1: its bytes are gathered and the holder dropped (Table 11.4). -/
def evictDisj (s : State) (core line : Nat) : State :=
  match tabGet s.partials (partialKey core line) with
  | none => s
  | some p =>
    let home := memRead s.mem (128 * line) 128
    let bytes := (List.range 128).map (fun i => if p.touched.getLsbD i then p.bytes.getD i 0 else home.getD i 0)
    let e := dirAt s line
    let left := e.holders.filter (· ≠ core)
    let s1 := noteChannel { writeMem s (128 * line) bytes with partials := tabDel s.partials (partialKey core line) } line
    setDir (if p.bad &&& p.touched ≠ 0 then addPoison s1 line else s1) line
      (if left.isEmpty then DirEntry.reset else { e with holders := left })

/-- A cache of the package gives up its copy of a host line; the directory's exact list follows, its map does not (R248). -/
def dropHostHolder (s : State) (line cache : Nat) : State :=
  { s with hostdir := s.hostdir.filterMap (fun e =>
      if e.1 ≠ line then some e
      else
        let left := e.2.holders.filter (fun c => c ≠ cache)
        let sh := if e.2.map.isNone then e.2.sharers.filter (fun c => c ≠ cache) else e.2.sharers
        if left.isEmpty && sh.isEmpty && e.2.map.isNone then none
        else some (e.1, { e.2 with holders := left, sharers := sh })) }

/-- The notice of an eviction, or the evicted partial, reaches the home; nothing comes of it where the cache holds the line
again. -/
def deliverNotice (s : State) (cache line : Nat) : State :=
  if !s.notices.contains (cache, line) then s
  else
    let s1 := { s with notices := s.notices.filter (fun n => n ≠ (cache, line)) }
    if (copiesOf s line).contains cache || ((hostLineAt s line).map (fun h => h.holders.contains cache)).getD false then s1
    else if deviceLine line then
      (match (dirAt s line).st with
        | .faceted _ => parkPartial s1 cache line
        | .gathering => evictDisj s1 cache line
        | _ => evictCopy s1 line cache)
    else dropHostHolder s1 line cache

/-! ### The grant of a partial (R239 to R243) -/

/-- What a facet request finds at the home. -/
inductive Grant where
  /-- the core holds a partial under the tag now -/
  | granted (s : State)
  /-- the home has started a focus; the request comes again (R242) -/
  | focused (s : State)
  /-- the host holds or owns the line -/
  | hostFirst

/-- The home grants `core` a partial of a line that is not faceted under another tag. -/
def grantPartial (s : State) (core line : Nat) (tag : BitVec 4) : State :=
  let s1 := dropCopies (recallLocal s line) line []
  let e := dirAt s1 line
  let h := holderSlot core
  let own := tabD e.assigned h []
  let mine := own.contains core
  let p := if mine then (tabGet e.parked h).getD (newPartial tag) else newPartial tag
  let e1 : DirEntry :=
    { e with st := .faceted tag, holders := e.holders ++ [core], writers := []
             assigned := tabPut e.assigned h (if mine then own else own ++ [core])
             parked := if mine then tabDel e.parked h else e.parked }
  setDir { s1 with partials := tabPut s1.partials (partialKey core line) p } line e1

/-- A facet request of a core (Table 11.4, R241, R242). `slot` is the hart slot a focus counts in. -/
def facetGrant (s : State) (core line : Nat) (tag : BitVec 4) (slot : Option Nat) : Grant :=
  let e := dirAt s line
  if hostOwns s line || hostShares s line then .hostFirst
  else
    match e.st with
    | .faceted t =>
      if t = tag then
        if e.holders.contains core then .granted s
        else
          let own := tabD e.assigned (holderSlot core) []
          if tagExact tag || own.isEmpty || own = [core] then .granted (grantPartial s core line tag)
          else .focused (focus s line slot)
      else .granted (grantPartial (focus s line slot) core line tag)
    | .gathering => .granted (grantPartial (focus s line slot) core line tag)
    | _ => .granted (grantPartial s core line tag)

/-! ### Facet reductions (R183, R184) -/

/-- The core's own partial of a line under a tag, whose eviction has not begun. -/
def localPartial (s : State) (core line : Nat) (tag : BitVec 4) : Option Partial :=
  if (dirAt s line).st = .faceted tag && (dirAt s line).holders.contains core && !s.notices.contains (core, line) then
    tabGet s.partials (partialKey core line)
  else none

/-- `red`: `n` is the width in bytes, `ty` the type an immediate operand is converted into. -/
def red (s : State) (tag : BitVec 4) (n : Nat) (ty : Option ETy) (a b : Spec) : Out :=
  finish s (do
    let (s1, v) ← gate s [opA .ssrc a, opB .ssrc b]
    mayAccess s .s
    let va := valAt v 0
    let x := match ty with | some t => (typedSrc t b (valAt v 1)).1 | none => valAt v 1
    need (va.toNat % n = 0) (misaligned va 0)
    let (s2, h) ← access s1 va 0 needW
    match h.tgt with
    | .device pa => do
      need (leafCL h.leaf ≠ 2) (.error (.walkFault (accessDenied va.toNat 0) (walked va.toNat 0 needW)))
      noOwnStores s2 pa n
      let core := curCore s
      let line := lineOf pa
      let apply (u : State) (p : Partial) : State :=
        { u with partials := tabPut u.partials (partialKey core line) (partialApply p (pa % 128) n x) }
      match localPartial s2 core line tag, homeHolds s2 (curAsker s) (curPart s) core line true with
      | some p, _ => pure (retire (apply (touchLine (dropAhead s2 pa n) core line) p))
      | none, some g => .error (.wait g)
      | none, none =>
        match facetGrant (deliverNotice s2 core line) core line tag (some s.cur.slot) with
        | .granted s3 =>
          pure (retire (apply (allocLine (dropAhead s3 pa n) core line h.ep false)
            (tabD s3.partials (partialKey core line) (newPartial tag))))
        | .focused _ => .error (.wait (fun t => focus t line (some t.cur.slot)))
        | .hostFirst => .error (.wait (fun t => askHost t (curAsker t) line (curPart t)))
    | _ => .error (.walkFault (accessDenied va.toNat 0) (walked va.toNat 0 needW)))

def bitwiseWidth (sz : BitVec 1) : Nat := if sz = 1 then 8 else 4

def execRedIadd32 (a b : Spec) (s : State) : Out := red s 1 4 none a b
def execRedIadd64 (a b : Spec) (s : State) : Out := red s 2 8 none a b
def execRedFadd32 (a b : Spec) (s : State) : Out := red s 3 4 (some .f32) a b
def execRedFaddbf16 (a b : Spec) (s : State) : Out := red s 4 2 (some .bf16) a b
def execRedImax32 (a b : Spec) (s : State) : Out := red s 5 4 none a b
def execRedImin32 (a b : Spec) (s : State) : Out := red s 6 4 none a b
/-- The operand of `red.nmax32` and `red.nmin32` is the low 32 bits of B, as R183 says, of a negative immediate too; R52's
conversion of an immediate is not applied (log entry 22). -/
def execRedNmax32 (a b : Spec) (s : State) : Out := red s 7 4 none a b
def execRedNmin32 (a b : Spec) (s : State) : Out := red s 8 4 none a b
def execRedFmax32 (a b : Spec) (s : State) : Out := red s 9 4 (some .f32) a b
def execRedFmin32 (a b : Spec) (s : State) : Out := red s 10 4 (some .f32) a b
def execRedOr (a b : Spec) (sz : BitVec 1) (s : State) : Out := red s 11 (bitwiseWidth sz) none a b
def execRedAnd (a b : Spec) (sz : BitVec 1) (s : State) : Out := red s 12 (bitwiseWidth sz) none a b
def execRedXor (a b : Spec) (sz : BitVec 1) (s : State) : Out := red s 13 (bitwiseWidth sz) none a b

/-! ### Prefetch and write-back (R185, R186) -/

/-- A device line brought into a cache, or with `none` into its home slice; a facet, an owned line and a line whose home
makes the request wait are left alone: a `pf` is a hint. -/
def prefetchLine (s : State) (h : Hit) (line : Nat) (cache : Option Nat) : State :=
  let free : Bool := (match (dirAt s line).st with | .uncached => true | .shared => true | _ => false) &&
    (homeHolds s (curAsker s) (curPart s) (curCore s) line false).isNone
  match cache with
  | none => if free && leafCL h.leaf ≠ 2 then noteChannel (sliceServes s h line) line else s
  | some c =>
    if (copiesOf s line).contains c then touchLine s c line
    else if free && leafCL h.leaf = 0 then takeCopy (noteRead (noteChannel (sliceServes s h line) line) line c) h line c
    else s

/-- A host line asked for, once; the cache takes it when it comes. -/
def prefetchHost (s : State) (h : Hit) (line c : Nat) : State :=
  if ((hostLineAt s line).map (fun e => e.holders.contains c)).getD false then touchLine s c line
  else if leafCL h.leaf ≠ 0 || cutOff s (curCore s) h.tgt || coreWtOver s (curCore s) (128 * line) 128 ||
      hasAsk s (fun a => a.who = .fill c && a.addr = 128 * line) then s
  else sendAsk s (.fill c) 0x01 (128 * line) (c + 4096 * h.ep) 0 (curPart s) []

/-- `pf`: an access that would fault brings nothing; its walk waits for a fence that holds it back (R227). -/
def prefetch (s : State) (a b : Spec) (off : BitVec 24) (cache : State → Option Nat) : Out :=
  finish s (do
    let (s1, v) ← gate s [opA .ssrc a, opB .ssrc b]
    let ea := effAddr (valAt v 0) (valAt v 1) 1 off
    match access s1 ea 0 needR with
    | .error (.wait g) => .error (.wait g)
    | .error (.walkFault _ g) => pure (retire (g s1))
    | .error _ => pure (retire s1)
    | .ok (s2, h) =>
      match h.tgt, cache s with
      | .device pa, c => pure (retire (prefetchLine s2 h (lineOf pa) c))
      | .host pa, some c => pure (retire (prefetchHost s2 h (lineOf pa) c))
      | _, _ => pure (retire s2))

def execPf (a b : Spec) (off : BitVec 24) (s : State) : Out := prefetch s a b off (fun s => some (curCore s))
def execPfL2 (a b : Spec) (off : BitVec 24) (s : State) : Out := prefetch s a b off (fun _ => none)
def execPfPool (a b : Spec) (off : BitVec 24) (s : State) : Out := prefetch s a b off (fun s => some (poolCache (curCore s)))

/-- The core's L1 gives up a line: partial, DISJ copy or shared copy (R186). -/
def releaseLine (s : State) (core line : Nat) : State :=
  let s1 := { s with notices := s.notices.filter (fun n => n ≠ (core, line)) }
  match (dirAt s line).st with
  | .faceted _ => parkPartial s1 core line
  | .gathering => evictDisj s1 core line
  | _ => evictCopy s1 line core

/-- `cwb`. The bytes of a DISJ copy go into the home copy, and wait for what its home makes a write wait for (R164, R246). -/
def execCwb (a b : Spec) (off : BitVec 24) (s : State) : Out :=
  finish s (do
    let (s1, v) ← gate s [opA .ssrc a, opB .ssrc b]
    mayAccess s .s
    let ea := effAddr (valAt v 0) (valAt v 1) 1 off
    let (s2, h) ← access s1 ea 0 needR
    let line := lineOf (targetPa h.tgt)
    if seqWtOver s (curKey s) s.cur.side (128 * line) 128 then .error (.wait id)
    else
      match h.tgt with
      | .device _ =>
        match (if (dirAt s line).st = .gathering then homeHolds s (curAsker s) (curPart s) (curCore s) line true else none) with
        | some g => .error (.wait g)
        | none =>
          if cutOff s (curCore s) h.tgt then .error (.wait id) else pure (retire (releaseLine s2 (curCore s) line))
      | .host _ => pure (retire (dropHostHolder s2 line (curCore s)))
      | _ => pure (retire s2))

/-! ### The fence (R206) -/

/-- What a fence with T or I in Q also orders before the later walks or fetches: every earlier acquire of the sequencer, and
with it the stores on its core that happened before (R228). -/
def acquireFence (acq : Nat) (f : FenceRec) : List FenceRec :=
  if f.q &&& 0x18 = 0 then [] else [⟨3, f.q &&& 0x18, f.scope, acq⟩]

/-- The fences still in force, and a new one. -/
def addFence (s : State) (f : FenceRec) : State :=
  let live := (curSeq s).fences.filter (fun g => pending s (curKey s) s.cur.side (curCore s) g.p (atHomes g.scope) g.cut)
  modSeq s (fun q => { q with fences := live ++ f :: acquireFence q.acq f })

/-- A fence whose Q holds S discards what the sequencer's load streams have read ahead (R256); one that holds S or V, what
its later loads have (R220). -/
def fenceDiscards (s : State) (q : BitVec 5) : State :=
  let s1 := if q.getLsbD 0 then discardStreams s (curKey s) s.cur.side else s
  if q.getLsbD 0 || q.getLsbD 1 then modSeq s1 (fun r => { r with ahead := [] }) else s1

def execFence (p q : BitVec 5) (scope : BitVec 3) (s : State) : Out :=
  finish s (if p = 0 || q = 0 then pure (retire s)
    else pure (retire (addFence (fenceDiscards s q) ⟨p, q, scope, s.ids⟩)))

end Sys2Proof.Machine
end

