-- ==== Sys2Proof/Machine/Matrix.lean ====
section
/-!
DEFINITION. The matrix engine: plane tiles, `mm`, `mms`, `mzero`, `mld`, `mst`, `tpln` and their completion (R207 to
R216), with what tiles share (R307 to R309).
-/

namespace Sys2Proof.Machine

/-! ### Tiles (R307 to R309) -/

def tileNo : Spec → Nat
  | .t i => i.toNat
  | _ => 0

def tileOf (c : Ctx) (n : Nat) : Tile := c.tiles.getD n Tile.undefined

def tileStCode : TileSt → Nat
  | .empty => 0 | .filling => 1 | .ready => 2 | .draining => 3

/-- A tile-table entry as its 256 bits (Table 14.5). -/
def tileBits (t : Tile) : Nat :=
  tileStCode t.st + t.defined.toNat * 2 ^ 2 + t.ab.toNat * 2 ^ 3 + (tyCode t.ty).toNat * 2 ^ 4 + t.pf.toNat * 2 ^ 8 +
    t.mx.toNat * 2 ^ 9 + t.sn.toNat * 2 ^ 10 + t.nr % 2 ^ 16 * 2 ^ 16 + t.base % 2 ^ 20 * 2 ^ 64 +
    t.rows % 2 ^ 16 * 2 ^ 96 + t.rlen % 2 ^ 24 * 2 ^ 128

/-- A tile-table entry changes, wherever the entry is held: while the context stands in no slot its block holds the entry
too, and staging or a halt reads it there (R310). -/
def modTile (s : State) (key n : Nat) (f : Tile → Tile) : State :=
  let c := ctxAt s key
  let e := f (tileOf c n)
  let s1 := setCtx s key { c with tiles := c.tiles.setIfInBounds n e }
  if c.saved && !(match c.place with | .inSlot _ => true | _ => false) then
    blockWrite s1 c.part c.core (ctxBlock s key + 0x500 + 32 * n) (leBytes 32 (tileBits e))
  else s1

def tileUndefined {α : Type} (n : Nat) : Res α := faultWith 0x09 0 0 (BitVec.ofNat 16 n)

/-- A tile the instruction names is defined. -/
def needTile (c : Ctx) (sp : Spec) : Res Tile :=
  let t := tileOf c (tileNo sp)
  if t.defined then .ok t else tileUndefined (tileNo sp)

/-- N of a structured-sparse form by SPN; SN of Table 14.5 is SPN + 1, and 0 for the dense form. -/
def sparseN (spn : BitVec 2) : Nat := 4 * 2 ^ spn.toNat
def snOf (sp : Bool) (spn : BitVec 2) : BitVec 2 := if sp then spn + 1 else 0

def scratchEnd : Nat := 0x100000
def tileInside (t : Tile) : Bool := t.base + tileSize t ≤ scratchEnd

def tileRead (s : State) (core : Nat) (t : Tile) (off n : Nat) : List Byte := memRead s.mem (tilePa core t + off) n

/-- The first poisoned line of a tile's region. -/
def tilePoison (s : State) (t : Tile) : Option Nat := poisonIn s (tilePa (curCore s) t) (tileSize t)

/-- A tile an instruction reads holds no uncorrectable error (R165); its access has no virtual address (log entry 67). -/
def needClean (s : State) (t : Tile) : Res Unit :=
  match tilePoison s t with
  | none => .ok ()
  | some l => .error (.fault (uncorrectable 0 l 0))

/-- Elements as bytes, and back; f4e2m1 packed two to a byte (R30). -/
def packElems (t : ETy) (l : List Word) : List Byte :=
  if t = .f4e2m1 then packNibbles l else l.flatMap (fun w => leBytes (elemBytes t) (elemMask t w).toNat)

def unpackElems (t : ETy) (n : Nat) (l : List Byte) : List Word :=
  if t = .f4e2m1 then
    (l.flatMap (fun b => [((b &&& 15#8).zeroExtend 64 : Word), ((b >>> 4).zeroExtend 64 : Word)])).take n
  else elemsOf t n l

/-! ### Plane form (R208, R209) -/

/-- Plane bit `q` of a source element. -/
def planeBit (t : ETy) (w : Word) (q : Nat) : Bool :=
  let c := planeCounts t
  let sign := c.1 + c.2.1
  if t = .i8 then
    let v := intOf .i8 w
    if q < 8 then v.natAbs.testBit q else decide (v < 0)
  else
    match valueOf t w with
    | .nan => decide (q = sign + 1)
    | .inf neg => decide (q = sign + 1 + c.2.2.1) || (neg && decide (q = sign))
    | .fin _ _ =>
      let n := w.toNat % 2 ^ tyWidth t
      let f := n % 2 ^ fracBits t
      let e := n / 2 ^ fracBits t % 2 ^ expBits t
      let m := if e = 0 then f else f + 2 ^ fracBits t
      if q < c.1 then m.testBit q
      else if q < sign then e.testBit (q - c.1)
      else decide (q = sign) && n.testBit (tyWidth t - 1)

/-- `ValueB` from the plane bits of one element (R209); the scale of its column and group, if MXB. Under the scale 0xFF
every element reads as NaN, an infinity too, as R29 and R41 say; R209's own text returns the infinity first (log entry
80). -/
def planeValue (t : ETy) (bit : Nat → Bool) (scale : Option Byte) : FV :=
  let c := planeCounts t
  let sign := c.1 + c.2.1
  let s := bit sign
  if scale = some 0xFF || (c.2.2.1 = 1 && bit (sign + 1)) then .nan
  else if c.2.2.2 = 1 && bit (sign + 1 + c.2.2.1) then .inf s
  else
      let m := (List.range c.1).foldl (fun n i => n + if bit i then 2 ^ i else 0) 0
      let e := (List.range c.2.1).foldl (fun n i => n + if bit (c.1 + i) then 2 ^ i else 0) 0
      let mag : Rat := if t = .i8 then m else (m : Rat) * pow2 ((max e 1 : Nat) - expBias t - fracBits t)
      let v : FV := .fin s (if s then -mag else mag)
      match scale with
      | none => v
      | some b => fvMul (scaleValue b) (if t = .i8 then fvMul v (fvOfRat (mkRat 1 64)) else v)

/-- 32-bit words of a byte list. -/
def words32 : Nat → List Byte → List Nat
  | 0, _ => []
  | n + 1, l => leNat (l.take 4) :: words32 n (l.drop 4)

/-- One block of a plane tile, column by column: the value at each position, none where compression dropped it. -/
def blockColumns (t : ETy) (sn : BitVec 2) (mx : Bool) (l : List Byte) : List (List (Option FV)) :=
  let nw := planeWords sn
  let np := planesPerBlock t
  let w := (words32 (np * nw) l).toArray
  let rest := l.drop (4 * np * nw)
  let masks := if sn = 0 then List.replicate 32 (2 ^ 32 - 1) else words32 32 rest
  let scales := if sn = 0 then rest else rest.drop 128
  masks.zipIdx.map (fun mj =>
    let scale := if mx then some (scales.getD mj.2 0) else none
    (List.range 32).map (fun k =>
      if mj.1.testBit k then
        let k' := (List.range k).countP (fun i => mj.1.testBit i)
        some (planeValue t (fun q => (w.getD (q * nw + k') 0).testBit mj.2) scale)
      else none))

/-- The bytes `tpln` writes for one group: `els` are the kept elements of each of the 32 columns, `masks` and `scales`
the columns' masks and scale bytes (R208). -/
def planeBlock (t : ETy) (sn : BitVec 2) (mx : Bool) (els : List (List Word)) (masks : List Nat) (scales : List Byte) :
    List Byte :=
  let nw := planeWords sn
  let planes := (List.range (planesPerBlock t)).flatMap (fun q =>
    (List.range nw).flatMap (fun k =>
      leBytes 4 ((els.zipIdx.map (fun cj => if planeBit t (valAt cj.1 k) q then 2 ^ cj.2 else 0)).foldl (· + ·) 0)))
  planes ++ (if sn = 0 then [] else masks.flatMap (leBytes 4)) ++ (if mx then scales else [])

/-! ### The products (R41, R209, R213) -/

/-- Row `i` of an A tile as values (ValueA). -/
def rowValues (s : State) (core : Nat) (t : Tile) (mx : Bool) (i : Nat) : List FV :=
  let rb := tileRowBytes t
  let g := t.rlen / 32
  let scales := if mx then tileRead s core t (32 * rb + i * g) g else []
  (unpackElems t.ty t.rlen (tileRead s core t (i * rb) rb)).zipIdx.map (fun e =>
    mxValue t.ty (if mx then some (scales.getD (e.2 / 32) 0) else none) e.1)

/-- Products of one group for one output, positions dropped by compression left out. -/
def groupTerms (a : List FV) (b : List (Option FV)) : List FV :=
  (List.zipWith (fun x y => y.map (fun v => fvMul x v)) a b).filterMap id

/-- One group added into an accumulator element (R41): the element and its saturations. -/
def accStep (f32acc : Bool) (acc : BitVec 32) (terms : List FV) : BitVec 32 × Nat :=
  if f32acc then
    ((f32Of (fvAdd (f32Val (acc.zeroExtend 64)) (f32Val (f32Of (fvSum terms))))).truncate 32, 0)
  else
    let n : Int := match fvSum terms with | .fin _ q => q.num | _ => 0
    let r := satInt32 (acc.toInt + n)
    (BitVec.ofInt 32 r.1, r.2)

/-- `MatAccumulate` (R41) for one output element, group by group. -/
def matAccumulate (f32acc : Bool) : BitVec 32 → List (List FV × List (Option FV)) → BitVec 32 × Nat
  | acc, [] => (acc, 0)
  | acc, g :: r =>
    let x := accStep f32acc acc (groupTerms g.1 g.2)
    let y := matAccumulate f32acc x.1 r
    (y.1, x.2 + y.2)

/-- A list cut into pieces of 32. -/
def groups32 {α : Type} : Nat → List α → List (List α)
  | 0, _ => []
  | n + 1, l => l.take 32 :: groups32 n (l.drop 32)

/-- An accumulator from its 1,024 elements. -/
def accOf (t : ETy) (l : List (BitVec 32)) : Acc :=
  ⟨t, (l.zipIdx.filter (fun e => e.1 ≠ 0)).map (fun e => (e.2, e.1))⟩

def accEl (a : Acc) (i : Nat) : BitVec 32 := tabD a.el i 0

def accAt (c : Ctx) (n : BitVec 1) : Acc := if n = 0 then c.acc0 else c.acc1
def setAcc (c : Ctx) (n : BitVec 1) (a : Acc) : Ctx := if n = 0 then { c with acc0 := a } else { c with acc1 := a }

/-- The new accumulator of an `mm` or `mms` and its saturations (R213). -/
def matProduct (s : State) (core : Nat) (acc : Acc) (a b : Tile) (ct : ETy) (mxa : Bool) : Acc × Nat :=
  let g := a.rlen / 32
  let rows := (List.range 32).map (fun i => groups32 g (rowValues s core a mxa i))
  let bb := blockBytes b.ty b.sn b.mx
  let blocks := (List.range g).map (fun i => blockColumns b.ty b.sn b.mx (tileRead s core b (i * bb) bb))
  let out := rows.zipIdx.flatMap (fun r =>
    (List.range 32).map (fun j =>
      matAccumulate (decide (ct = .f32)) (accEl acc (32 * r.2 + j))
        (List.zip r.1 (blocks.map (fun blk => blk.getD j [])))))
  (accOf ct (out.map Prod.fst), out.foldl (fun n x => n + x.2) 0)

/-! ### Issue (R207) -/

/-- The other hart of the core has an instruction waiting for the engine. -/
def otherWaits (s : State) : Bool :=
  match (slotAt s (s.cur.slot ^^^ 1)).ctx with
  | some k =>
    let c := ctxAt s k
    c.x.why = .engine && !(partAt s c.part).line && !(c.x.atBound && (slotAt s (s.cur.slot ^^^ 1)).request.isSome)
  | none => false

/-- The engine is free, and it is not the other hart's turn, or the instruction stalls: it issues, and the checks of its
description are made, when the engine begins it (R207, R59; log entry 33). -/
def needEngine (s : State) : Res Unit :=
  if (tabGet s.mx (curCore s)).isSome ||
      (otherWaits s && decide (tabGet s.mxLast (curCore s) = some s.cur.slot)) then stallIn s .engine else .ok ()

/-- The engine begins an instruction and the sequencer goes on; `u` holds its effects on memory and accumulators (log entry
33), `n` are its cycles (Table 9.1), and `sats` the saturations that its completion counts (R82). -/
def beginMatrix (u : State) (k : MxKind) (n sats : Nat) : State :=
  let s1 := { u with mx := tabPut u.mx (curCore u) ⟨curKey u, u.cur.slot, u.ids, k, sats⟩
                     mxLast := tabPut u.mxLast (curCore u) u.cur.slot }
  retire (bumpIds (curPm s1 9 n))

/-- What the engine writes to a tile's region. -/
def tilePut (s : State) (t : Tile) (b : List Byte) : State :=
  modSeq (homeWrite s (tilePa (curCore s) t) b) (fun q => { q with ahead := [] })

def mxType (t : ETy) : Bool := t = .f4e2m1 || t = .f8e5m2 || t = .f8e4m3 || t = .i8
def aType (t : ETy) : Bool := mxType t || t = .bf16 || t = .f16
def bType (t : ETy) : Bool := mxType t || t = .bf16

/-- The types of Table 9.3, and the service level's limit on B (R211). -/
def mmTypes (s : State) (at_ bt ct : ETy) (mxa mxb : Bool) : Bool :=
  ((ct = .i32 && at_ = .i8 && bt = .i8 && !mxa && !mxb) ||
    (ct = .f32 && aType at_ && bType bt && (!mxa || mxType at_) && (!mxb || mxType bt))) &&
  !(s.svc = 1 && (bt = .bf16 || bt = .i8))

def accNo : Spec → BitVec 1
  | .acc i => i
  | _ => 0

/-- `mm` and `mms` (R211, R214). DESIGN CHOICE (log 98): of several ILLEGAL_OPERAND cases of step 3 all those of tA come
first and report position 2, its MX flag among them; those of tB report position 3. R214 names no position. -/
def mmIssue (s : State) (at_ bt ct : BitVec 4) (mxa mxb sp : Bool) (spn : BitVec 2) (sparse : Bool) (d a b : Spec) :
    Out :=
  finish s (do
    let ta := tyOfCode at_
    let tb := tyOfCode bt
    let tc := tyOfCode ct
    let c := curCtx s
    let (s1, _) ← gateWith s [opD .acc d, opA .tile a, opB .tile b]
      (need (mmTypes s ta tb tc mxa mxb && sp = sparse && !(sp && spn = 3)) (illegalOperand s 5))
    needEngine s
    let A ← needTile c a
    let B ← needTile c b
    need ((accAt c (accNo d)).tag = tc) (tagMismatch s 1)
    need (A.ty = ta) (tagMismatch s 2)
    need (B.ty = tb) (tagMismatch s 3)
    need (A.rows = 32 && A.rlen % 32 = 0 && decide (32 ≤ A.rlen) && decide (A.rlen ≤ 1024) && !A.pf && A.mx = mxa &&
      tileInside A) (illegalOperand s 2)
    need (B.pf && B.rlen = A.rlen && B.mx = mxb && B.sn = snOf sparse spn && tileInside B) (illegalOperand s 3)
    mayAccess s .v
    need (A.st = .ready && B.st = .ready) (stallIn s .tile)
    needClean s A
    needClean s B
    let g := A.rlen / 32
    let p := (planeCounts tb).1
    let r := matProduct s1 (curCore s) (accAt c (accNo d)) A B tc mxa
    pure (beginMatrix (modCur s1 (fun c => setAcc c (accNo d) r.1)) .mm (if sparse then p * ((g + 1) / 2) else p * g) r.2))

def execMm (at_ bt ct : BitVec 4) (mxa mxb : Bool) (d a b : Spec) (s : State) : Out :=
  mmIssue s at_ bt ct mxa mxb false 0 false d a b

def execMms (at_ bt ct : BitVec 4) (mxa mxb sp : Bool) (spn : BitVec 2) (d a b : Spec) (s : State) : Out :=
  mmIssue s at_ bt ct mxa mxb sp spn true d a b

/-- `mzero` (R215); it too waits for the engine to be free. -/
def execMzero (t : BitVec 4) (d : Spec) (s : State) : Out :=
  finish s (do
    let ty := tyOfCode t
    let (s1, _) ← gateWith s [opD .acc d] (need (ty = .i32 || ty = .f32) (illegalOperand s 5))
    needEngine s
    pure (retire (curPm (modCur s1 (fun c => setAcc c (accNo d) ⟨ty, []⟩)) 9 32)))

/-- The shape `mld` and `mst` need (R215). -/
def square32 (t : Tile) : Bool := t.rows = 32 && t.rlen = 32 && !t.pf && tileInside t

/-- `mld` (R215). DESIGN CHOICE (log 97): an undefined tile faults TILE_UNDEFINED before the shape check. -/
def execMld (d a : Spec) (s : State) : Out :=
  finish s (do
    let c := curCtx s
    let (s1, _) ← gate s [opD .acc d, opA .tile a]
    needEngine s
    let t ← needTile c a
    need (square32 t) (illegalOperand s 2)
    need (t.ty = .i32 || t.ty = .f32) (tagMismatch s 2)
    mayAccess s .v
    need (t.st = .ready) (stallIn s .tile)
    needClean s t
    let els := (words32 1024 (tileRead s1 (curCore s) t 0 4096)).map (BitVec.ofNat 32)
    pure (beginMatrix (modCur s1 (fun c => setAcc c (accNo d) (accOf t.ty els))) .mld 32 0))

/-- A producer takes its tile (R309). -/
def fillTile (s : State) (key n : Nat) : State := modTile s key n (fun t => { t with st := .filling, ab := false })

/-- The bytes `mst` writes of an accumulator, and its narrowings that saturate (R215). -/
def storedAcc (a : Acc) (t : ETy) : List Byte × Nat :=
  let vals := (List.range 1024).map (fun i => convert (valueOf a.tag ((accEl a i).zeroExtend 64)) t)
  (packElems t (vals.map Prod.fst), vals.foldl (fun n v => n + v.2) 0)

/-- `mst` (R215). DESIGN CHOICE (log 97): an undefined tile faults TILE_UNDEFINED before the shape check. -/
def execMst (d a : Spec) (s : State) : Out :=
  finish s (do
    let c := curCtx s
    let (s1, _) ← gate s [opD .tile d, opA .acc a]
    needEngine s
    let t ← needTile c d
    need (square32 t) (illegalOperand s 1)
    need (tyNumeric t.ty) (tagMismatch s 1)
    need ((accAt c (accNo a)).tag ≠ .none) (tagMismatch s 2)
    mayAccess s .v
    need (t.st = .empty) (stallIn s .tile)
    let r := storedAcc (accAt c (accNo a)) t.ty
    let s2 := tilePut (fillTile s1 (curKey s) (tileNo d)) t r.1
    pure (beginMatrix s2 (.mst (tileNo d) t) 32 r.2))

/-- Groups of a `tpln` source (R210). -/
def tplnGroups (ts : Tile) (sp : Bool) (spn : BitVec 2) : Nat := if sp then ts.rlen / sparseN spn else ts.rlen / 32

/-- The mask words of a mask tile, column by column. -/
def maskRows (s : State) (core : Nat) (tm : Tile) (g : Nat) : List (List Nat) :=
  (List.range 32).map (fun j => words32 g (tileRead s core tm (4 * j * g) (4 * g)))

def bitCount32 (w : Nat) : Nat := (List.range 32).countP (fun i => w.testBit i)

/-- The bytes of a plane tile (R208). The scale bytes of a sparse MX source follow its data, whose rows R308 makes RLEN elements
long; that R209 gives the source K elements a row is set aside (log entry 103). -/
def tplnBytes (s : State) (core : Nat) (ts : Tile) (t : ETy) (mx : Bool) (sn : BitVec 2) (masks : List (List Nat))
    (g : Nat) : List Byte :=
  let rb := tileRowBytes ts
  let nw := planeWords sn
  let cols := (List.range 32).map (fun j => unpackElems t ts.rlen (tileRead s core ts (j * rb) rb))
  (List.range g).flatMap (fun i =>
    planeBlock t sn mx (cols.map (fun l => (l.drop (i * nw)).take nw)) (masks.map (fun m => m.getD i 0))
      ((List.range 32).map (fun j => memByte s.mem (tilePa core ts + 32 * rb + j * g + i))))

/-- The scale bytes of a `tpln` source lie in the scratchpad; in the sparse form they are more than its entry counts (R209,
R210). -/
def scalesInside (ts : Tile) (g : Nat) : Bool := ts.base + 32 * tileRowBytes ts + 32 * g ≤ scratchEnd

/-- `tpln` (R210). DESIGN CHOICE (log 96): an undefined td, ts or tm faults TILE_UNDEFINED, in that order, before any other
check of a tile, and both type checks come before every shape check: R210 names no TILE_UNDEFINED and no order. -/
def execTpln (t : BitVec 4) (mx sp : Bool) (spn : BitVec 2) (d a b : Spec) (s : State) : Out :=
  finish s (do
    let ty := tyOfCode t
    let c := curCtx s
    let core := curCore s
    let (s1, _) ← gateWith s ([opD .tile d, opA .tile a] ++ if sp then [opB .tile b] else [])
      (need (bType ty && (!mx || mxType ty) && !(sp && spn = 3) && !(s.svc = 1 && (ty = .bf16 || ty = .i8)))
        (illegalOperand s 5))
    needEngine s
    let td ← needTile c d
    let ts ← needTile c a
    let tm ← (if sp then needTile c b else pure Tile.undefined)
    need (ts.ty = ty) (tagMismatch s 2)
    need (!sp || tm.ty = .n32) (tagMismatch s 3)
    let g := tplnGroups ts sp spn
    need (ts.rows = 32 && !ts.pf && ts.mx = mx && tileInside ts && (!mx || scalesInside ts g) &&
      (sp || (ts.rlen % 32 = 0 && decide (32 ≤ ts.rlen) && decide (ts.rlen ≤ 1024)))) (illegalOperand s 2)
    need (!sp || (tm.rows = 32 && !tm.pf && !tm.mx && tm.rlen = g && ts.rlen % sparseN spn = 0 && decide (1 ≤ g) &&
      decide (g ≤ 32) && tileInside tm)) (illegalOperand s 3)
    need (tileInside td && decide (g * blockBytes ty (snOf sp spn) mx ≤ tileSize td)) (illegalOperand s 2)
    mayAccess s .v
    need (ts.st = .ready && td.st = .empty && (!sp || tm.st = .ready)) (stallIn s .tile)
    needClean s ts
    needClean s tm
    need (!mx || (poisonIn s (tilePa core ts + 32 * tileRowBytes ts) (32 * g)).isNone)
      (.error (.fault (uncorrectable 0 ((poisonIn s (tilePa core ts + 32 * tileRowBytes ts) (32 * g)).getD 0) 0)))
    need (!sp || (maskRows s core tm g).all (fun r => r.all (fun w => bitCount32 w = sparseN spn))) (illegalOperand s 6)
    let cyc := (if sp then 1 else 2) * g * planesPerBlock ty
    let masks := if sp then maskRows s1 core tm g else []
    let s2 := tilePut (fillTile s1 (curKey s) (tileNo d)) td (tplnBytes s1 core ts ty mx (snOf sp spn) masks g)
    let made : Tile :=
      { td with st := .ready, ab := false, nr := 32, ty := ty, rows := 32, rlen := 32 * g, pf := true, mx := mx,
                sn := snOf sp spn }
    pure (beginMatrix s2 (.tpln (tileNo d) made) cyc 0))

/-! ### Completion (R207, R210, R213, R215) -/

/-- A result tile becomes ready with rows of valid data. -/
def tileReady (s : State) (key n nr : Nat) : State := modTile s key n (fun t => { t with st := .ready, nr := nr })

/-- MATRIX_INSTRUCTION_COMPLETE (R207): the engine is free again, its saturations are counted (R82), and a tile that was filled
is ready. -/
def execMatrixInstructionComplete (core : Nat) (s : State) : Out :=
  .next (match tabGet s.mx core with
    | none => s
    | some op =>
      let s1 := addSat { s with mx := tabDel s.mx core } op.slot (ctxAt s op.ctx).part 1 op.sats
      match op.kind with
      | .mm => s1
      | .mld => s1
      | .mst n _ => tileReady s1 op.ctx n 32
      | .tpln n t => modTile s1 op.ctx n (fun _ => t))

end Sys2Proof.Machine
end

