-- ==== Sys2Proof/Machine/Engines.lean ====
section
/-!
DEFINITION. Engine commands: handles as operands (R317, R318), issue (R196, R197), the ranges of a command and their
reads and writes (R197 to R199, R226), and the copy commands `cpy`, `cpyg` and `drain` (R200 to R202).
-/

namespace Sys2Proof.Machine

/-! ### Handles (R317, R318) -/

def handleSlot (h : Word) : Nat := h.toNat % 256
def handleAt (s : State) (p n : Nat) : Handle := tabD (partAt s p).handles n Handle.reset
def setHandle (s : State) (p n : Nat) (h : Handle) : State :=
  modPart s p (fun q => { q with handles := tabPut q.handles n h })

/-- A handle is current (R317). -/
def currentHandle (s : State) (p : Nat) (h : Word) : Bool :=
  let e := handleAt s p (handleSlot h)
  bitsOf h.toNat 8 8 = 0 && bitsOf h.toNat 48 16 = 0 && e.valid && e.gen.toNat = bitsOf h.toNat 16 32

def needHandle (s : State) (h : Word) : Res Handle :=
  if currentHandle s (curPart s) h then .ok (handleAt s (curPart s) (handleSlot h)) else handleStale h

def movePin (s : State) (p : Nat) (pin : Option Nat) (f : Nat → Nat) : State :=
  match pin with
  | none => s
  | some n => let h := handleAt s p n; setHandle s p n { h with pin := f h.pin }

/-- Bytes of a row of the region across all 2,048 banks (R318). -/
def regionRow : Nat := 0x200000

/-! ### The queues (R196) -/

def isColl : CmdKind → Bool
  | .coll .. => true
  | _ => false

/-- The queue the command enters has room: 64 in a cluster's copy engines, 32 in a die's collective engine. -/
def queueRoom (s : State) (coll : Bool) : Bool :=
  let cl := clusterOfSlot s.cur.slot
  if coll then
    decide (s.cmds.countP (fun e => isColl e.2.kind && dieOfCluster (clusterOfCore e.2.issuer.core) = dieOfCluster cl) < 32)
  else
    decide (s.cmds.countP (fun e => !isColl e.2.kind && clusterOfCore e.2.issuer.core = cl) < 64)

/-- AN ENGINE COMMAND MAY ISSUE: no fence holds it back and its queue has room; else it stalls before issue, with no effect
and no check made (R196, R53). -/
def engineReady (s : State) (coll : Bool) : Res Unit := do
  mayAccess s .e
  need (queueRoom s coll) (stallIn s .queue)

/-- The translation cache a command goes through beside its cluster's: that of the copy engine that executes it; the
collective engine and the bank queues have the cluster's alone (Table 14.1; log entry 68). -/
def engineUnit (cluster n : Nat) (coll : Bool) : Nat :=
  if coll then clusterTlb cluster else 2048 + 4 * cluster + Config.copyEngine n % 4

/-- The executing sequencer as the issuer of a command, numbered as the next operation. -/
def curIssuer (s : State) (coll : Bool) (scope : BitVec 3) (pin : Option Nat) : Issuer :=
  { ctx := curKey s, slot := s.cur.slot, side := s.cur.side, core := curCore s, part := curPart s,
    task := (curCtx s).task, iter := (curCtx s).iter, pc := (curSeq s).pc, word := s.cur.word, scope := scope, pin := pin,
    id := s.ids, unit := engineUnit (clusterOfSlot s.cur.slot) s.ids coll }

/-! ### Ranges (R197, R199) -/

/-- A piece of a range inside one line: its virtual address, or its offset, and where it lies. -/
structure Piece where
  va : Nat
  tgt : Target
  leaf : Word
  n : Nat
  deriving DecidableEq, Repr, Inhabited

def advance (k : Nat) : Target → Target
  | .device pa => .device (pa + k)
  | .scratch pa => .scratch (pa + k)
  | .host pa => .host (pa + k)
  | .own pa => .own (pa + k)
  | .fabric n off => .fabric n (off + k)
  | .nothing => .nothing

/-- A stretch cut at line boundaries; `k` bounds the number of pieces. -/
def cutLines : Nat → Piece → List Piece
  | 0, _ => []
  | k + 1, p =>
    if p.n = 0 then []
    else
      let m := min p.n (128 - targetPa p.tgt % 128)
      { p with n := m } :: cutLines k ⟨(p.va + m) % 2 ^ 64, advance m p.tgt, p.leaf, p.n - m⟩

/-- The pieces of a virtual range, translated and checked in ascending order, 8 KiB at a time. -/
def rangeVa (i : Issuer) (w : Need) : Nat → State → Nat → Nat → State × Except NoHit (List Piece)
  | 0, s, _, _ => (s, .ok [])
  | k + 1, s, va, n =>
    if n = 0 then (s, .ok [])
    else
      let m := min n (8192 - va % 8192)
      match checkBy s (.cmd i.id) [i.unit, clusterTlb (clusterOfCore i.core)] i.part i.core (some i.slot) va 0 w with
      | (s1, .error f) => (s1, .error f)
      | (s1, .ok h) =>
        match rangeVa i w k s1 ((va + m) % 2 ^ 64) (n - m) with
        | (s2, .error f) => (s2, .error f)
        | (s2, .ok l) => (s2, .ok (cutLines 66 ⟨va, h.tgt, h.leaf, m⟩ ++ l))

/-- The pieces of a range of a handle's region (R318). -/
def rangeHandle (stack lo : Nat) : Nat → Nat → Nat → List Piece
  | 0, _, _ => []
  | k + 1, o, n =>
    if n = 0 then []
    else
      let m := min n (1024 - o % 1024)
      cutLines 9 ⟨o, .device (bankAddr stack (o / 1024 % 2048) (lo + o / regionRow) (o % 1024)), 0, m⟩ ++
        rangeHandle stack lo k (o + m) (n - m)

/-- A range of a command: where it lies, its first byte there and its bytes, and what it needs of its pages. -/
structure Rng where
  loc : Loc
  off : Nat
  n : Nat
  need : Need
  deriving DecidableEq, Repr, Inhabited

/-- The pieces of a range. -/
def rangeOf (s : State) (i : Issuer) (r : Rng) : State × Except NoHit (List Piece) :=
  match r.loc with
  | .va a => rangeVa i r.need (r.n / 8192 + 2) s ((a.toNat + r.off) % 2 ^ 64) r.n
  | .tile _ base => (s, .ok (cutLines (r.n / 128 + 2) ⟨0, .scratch (scratchOf i.core + base + r.off), 0, r.n⟩))
  | .hand stack lo _ o => (s, .ok (rangeHandle stack lo (r.n / 1024 + 2) (o.toNat + r.off) r.n))

/-- The address by which the ranges of a command are taken in ascending order (R197). -/
def Rng.key (r : Rng) : Nat :=
  r.off + match r.loc with
    | .va a => a.toNat
    | .tile _ base => base
    | .hand _ _ _ o => o.toNat

/-- Where a piece physically lies, for the overlap check: the own node's window names device memory (R200). -/
def physAt (p : Piece) : Nat := targetPa p.tgt

def overlaps (a b : List Piece) : Bool :=
  a.any (fun x => b.any (fun y => decide (physAt x < physAt y + y.n) && decide (physAt y < physAt x + x.n)))

/-! ### Issue (R196 to R198) -/

/-- The device lines of a command's destination ranges, as far as their translations are there at issue. -/
def destLines (s : State) (i : Issuer) (dst : List Rng) : List Nat :=
  (dst.flatMap (fun r =>
    match (rangeOf s i r).2 with
    | .ok l => l.filterMap (fun p => match p.tgt with | .device pa => some (lineOf pa) | _ => none)
    | .error _ => [])).dedup

/-- An engine command becomes the owner of a line: every copy goes, and a facet is focused first (R198, R244). -/
def ownLine (n slot : Nat) (s : State) (line : Nat) : State :=
  let s1 := dropCopies (recallLocal (focus s line (some slot)) line) line []
  setDir s1 line { dirAt s1 line with st := .owned (.engine n), writers := [] }

/-- The lines whose homes let the command have them become its own; it takes the others later. -/
def ownLines (i : Issuer) (s : State) (l : List Nat) : State :=
  l.foldl (fun s line =>
    match homeHolds s (.cmd i.id) i.part i.core line true with
    | none => ownLine i.id i.slot s line
    | some _ => s) s

/-- What a command still owns is Uncached when it has ended. -/
def disown (s : State) (n : Nat) : State :=
  { s with dir := s.dir.map (fun e => if e.2.st = .owned (.engine n) then (e.1, { e.2 with st := .uncached }) else e) }

/-- A CHECKED COMMAND ENTERS ITS QUEUE, owner of the lines of its destination (R196, R198). -/
def issueCmd (s : State) (k : CmdKind) (scope : BitVec 3) (pin : Option Nat) (dst : List Rng) : State :=
  let i := curIssuer s (isColl k) scope pin
  let lines := destLines s i dst
  let s1 := ownLines i s lines
  let s2 := { s1 with cmds := tabPut s1.cmds s.ids ⟨i, k, false, 0, lines, 0⟩ }
  bumpIds (curPm (movePin s2 (curPart s) pin (· + 1)) 10 1)

/-! ### Data (R196, R226) -/

/-- An answer that has come for a command. -/
def cmdAnswer (s : State) (n addr extra : Nat) : Option Answer :=
  (s.answers.find? (fun e => e.2.ask.who = .cmd n && e.2.ask.addr = addr && e.2.ask.extra = extra)).map Prod.snd

/-- Writes of the issuing core before the command that cover the bytes and have not performed (R226). -/
def writesBefore (s : State) (i : Issuer) (pa n : Nat) : Bool :=
  s.wts.any (fun e => e.2.core = i.core && e.2.cmd.isNone && decide (e.1 < i.id) && e.2.covers pa n)

/-- The issuing sequencer's earlier adds and half-byte stores to the bytes are on their way: a load of its own would wait
for them. -/
def addsBefore (s : State) (i : Issuer) (pa n : Nat) : Bool :=
  s.wts.any (fun e => e.2.ctx = i.ctx && e.2.task = i.task && e.2.iter = i.iter && e.2.side = i.side && e.2.cmd.isNone &&
    decide (e.1 < i.id) && e.2.kind ≠ .store && e.2.covers pa n)

/-- A request of a command to the host or to another package, once; it leaves when the issuing core's own earlier stores to
the bytes have performed. -/
def cmdAsks (s : State) (i : Issuer) (t : Target) (n code addr extra link : Nat) : Option (State → State) :=
  if (cmdAnswer s i.id addr extra).isSome then none
  else if cutOff s i.core t || writesBefore s i (targetPa t) n then some (fun u => u)
  else
    some (fun u =>
      if hasAsk u (fun a => a.who = .cmd i.id && a.addr = addr && a.extra = extra && a.code = code) then u
      else sendAsk u (.cmd i.id) code addr extra link i.part [])

/-- WHAT A READ OF A PIECE WAITS FOR: its line's home, or the answer that brings the bytes. -/
def readHolds (s : State) (i : Issuer) (p : Piece) : Option (State → State) :=
  let pa := targetPa p.tgt
  match p.tgt with
  | .device _ | .own _ =>
    if addsBefore s i pa p.n then some (fun u => u) else homeHolds s (.cmd i.id) i.part i.core (lineOf pa) false
  | .host _ => cmdAsks s i p.tgt p.n 0x03 (128 * lineOf pa) 0 0
  | .fabric node _ => cmdAsks s i p.tgt p.n 0x01 pa p.n (routeOf s node)
  | _ => none

/-- WHAT A WRITE OF A PIECE WAITS FOR: its line's home, or a failed link. -/
def writeHolds (s : State) (i : Issuer) (p : Piece) : Option (State → State) :=
  match p.tgt with
  | .device pa | .own pa => homeHolds s (.cmd i.id) i.part i.core (lineOf pa) true
  | t => if cutOff s i.core t then some (fun u => u) else none

/-- The bytes of one piece, read at its home (R226, R244), with the issuing core's earlier stores over them. -/
def readPiece (s : State) (i : Issuer) (p : Piece) : State × Except FaultReq (List Byte) :=
  let pa := targetPa p.tgt
  let mine (b : List Byte) : List Byte := overlay ((coreWts s i.core).filter (fun e => decide (e.1 < i.id))) pa b
  let bad : FaultReq := uncorrectable p.va (lineOf pa) 0
  let came (a : Option Answer) (o : Nat) : State × Except FaultReq (List Byte) :=
    match a with
    | some a =>
      if a.denied then (s, .error (accessDenied p.va 0))
      else if a.ps then (s, .error bad)
      else (s, .ok (mine (listSlice a.bytes o p.n)))
    | none => (s, .ok (List.replicate p.n 0))
  match p.tgt with
  | .device _ | .own _ =>
    let keep := if p.tgt.isOwn then none else leafKeeps p.leaf
    let s1 := noteRead (useSlice (homeLine s (lineOf pa) (some i.slot)) (lineOf pa) keep (leafCMP p.leaf)) (lineOf pa)
      engineAgent
    if poisoned s1 pa then (s1, .error bad) else (s1, .ok (mine (memRead s1.mem pa p.n)))
  | .scratch _ => if poisoned s pa then (s, .error bad) else (s, .ok (memRead s.mem pa p.n))
  | .host _ => came (cmdAnswer s i.id (128 * lineOf pa) 0) (pa % 128)
  | .fabric _ _ => came (cmdAnswer s i.id pa p.n) 0
  | .nothing => (s, .error (accessDenied p.va 0))

/-- The write-through of a command's write to the host or to another package. -/
def cmdWt (i : Issuer) (p : Piece) : Wt :=
  { kind := .store, ctx := i.ctx, task := i.task, iter := i.iter, slot := i.slot, side := i.side, core := i.core,
    part := i.part, cls := .e, cmd := some i.id, pa := targetPa p.tgt, bytes := [], pc := i.pc,
    va := BitVec.ofNat 64 p.va, elem := 0, policy := leafWP p.leaf, l1 := false, phase := .toHome, strm := none,
    alloc := none, own := false, op := i.id }

/-- The low half of a byte set, the high half as it was (R30). -/
def lowHalf (old v : Byte) : Byte := (v &&& 15#8) ||| (old &&& 0xF0#8)

/-- Bytes whose last one takes only bits [3:0]. -/
def keepHigh (b : List Byte) (old : Byte) : List Byte := b.dropLast ++ [lowHalf old (b.getLastD 0)]

/-- ONE PIECE WRITTEN at its home, whose line the command takes back for it (R226), or sent on its way; with `half` the last
byte keeps its bits [7:4], by a read-modify-write (R200). -/
def writePiece (s : State) (i : Issuer) (p : Piece) (b : List Byte) (half : Bool) : State :=
  let pa := targetPa p.tgt
  let line := lineOf pa
  let bytes (m : List Host.Cell) : List Byte := if half then keepHigh b (memByte m (pa + (b.length - 1))) else b
  let send : State :=
    if half then
      issueWts (issueWts s (cmdWt i p) (if b.length ≤ 1 then [] else [(pa, b.dropLast)]))
        { cmdWt i p with kind := .half (b.getLastD 0) 0 } [(pa + (b.length - 1), [])]
    else issueWts s (cmdWt i p) [(pa, b)]
  match p.tgt with
  | .device _ =>
    let s1 := noteChannel (ownLine i.id i.slot s line) line
    useSlice (homeWrite s1 pa (bytes s1.mem)) line (leafKeeps p.leaf) (leafCMP p.leaf)
  | .own _ =>
    let s1 := homeLine s line (some i.slot)
    afterWrite (homeWrite s1 pa (bytes s1.mem)) line .update []
  | .scratch _ => homeWrite s pa (bytes s.mem)
  | .host _ => send
  | .fabric _ _ => send
  | .nothing => s

/-- Pieces written in order; `half` is of the last. -/
def writePieces (i : Issuer) (half : Bool) : State → List Piece → List Byte → State
  | s, [], _ => s
  | s, p :: r, b => writePieces i half (writePiece s i p (b.take p.n) (half && r.isEmpty)) r (b.drop p.n)

/-! ### The outcome of a command's work -/

/-- What a command's turn does: it faults, its walks and reads having left `s`; waits, in what `g` makes of the state before
the turn; goes on to its next stage; or has written, with its saturations. -/
inductive Work where
  | fault (f : FaultReq) (s : State)
  | wait (g : State → State)
  /-- its page walk waits (R341) -/
  | walk (g : State → State)
  | next (s : State)
  | done (s : State) (sats : Nat)

/-- The work as a chain: translation results and data, any fault or wait ending it. -/
abbrev WorkM := Except Work

def orStop {α : Type} (r : State × Except NoHit α) : WorkM (State × α) :=
  match r with
  | (s, .error (.fault f)) => .error (.fault f s)
  | (_, .error (.wait g)) => .error (.walk g)
  | (s, .ok a) => .ok (s, a)

/-- The walk of a stream or a command is in flight, from the number at which it began (R341). -/
def beginWalk (s : State) (who : Asker) : State :=
  if s.walks.any (fun w => w.1 = who) then s else { s with walks := s.walks ++ [(who, s.ids)], ids := s.ids + 1 }

def endWalk (s : State) (who : Asker) : State := { s with walks := s.walks.filter (fun w => w.1 ≠ who) }

def orFault {α : Type} (r : State × Except FaultReq α) : WorkM (State × α) :=
  match r with
  | (s, .error f) => .error (.fault f s)
  | (s, .ok a) => .ok (s, a)

def cmdFault {α : Type} (s : State) (i : Issuer) (code : BitVec 8) (info : BitVec 16) : WorkM α :=
  .error (.fault ⟨code, 0, i.word, info, 0, none⟩ s)

def workAlign (s : State) (a : Word) (n : Nat) : WorkM Unit :=
  if a.toNat % n = 0 then .ok () else .error (.fault ⟨0x04, a, 0, 0, 0, none⟩ s)

/-- The reads and writes may go on, or the command waits for all that holds them. -/
def workReady (s : State) (i : Issuer) (rd wr : List Piece) : WorkM Unit :=
  match rd.filterMap (readHolds s i) ++ wr.filterMap (writeHolds s i) with
  | [] => .ok ()
  | l => .error (.wait (fun t => l.foldl (fun t g => g t) t))

def readPieces (i : Issuer) : State → List Piece → WorkM (State × List Byte)
  | s, [] => .ok (s, [])
  | s, p :: r => do
    let (s1, b) ← orFault (readPiece s i p)
    let (s2, l) ← readPieces i s1 r
    pure (s2, b ++ l)

/-- A range with its place in the command's list, put before those that begin at a higher address. -/
def insertRng (e : Rng × Nat) : List (Rng × Nat) → List (Rng × Nat)
  | [] => [e]
  | x :: r => if e.1.key ≤ x.1.key then e :: x :: r else x :: insertRng e r

def takeRanges (i : Issuer) : State → List (Rng × Nat) → WorkM (State × List (Nat × List Piece))
  | s, [] => .ok (s, [])
  | s, e :: r => do
    let (s1, p) ← orStop (rangeOf s i e.1)
    let (s2, l) ← takeRanges i s1 r
    pure (s2, (e.2, p) :: l)

/-- THE RANGES OF A COMMAND, translated and checked in ascending address order (R197); their pieces in the order given. -/
def ranges (s : State) (i : Issuer) (l : List Rng) : WorkM (State × List (List Piece)) := do
  let (s1, r) ← takeRanges i s (l.zipIdx.foldr insertRng [])
  pure (s1, (List.range l.length).map (fun k => ((r.find? (fun e => e.1 = k)).map Prod.snd).getD []))

/-- Bytes of `n` elements of a type in memory; with the type 0x0, `n` bytes. An odd number of f4e2m1 elements ends in half
a byte, and the span, which is also the distance of `cpyg`'s rows, is a whole number of bytes (log entry 79). -/
def spanOf (t : ETy) (n : Nat) : Nat :=
  if t = .none then n else if t = .f4e2m1 then (n + 1) / 2 else n * elemBytes t

/-- The last byte of `n` elements holds one of them only (R30, R200). -/
def oddHalf (t : ETy) (n : Nat) : Bool := t = .f4e2m1 && n % 2 = 1

/-- Elements converted, with their saturations (R200); unchanged bytes when the types are 0x0. -/
def convertBytes (st dt : ETy) (n : Nat) (b : List Byte) : List Byte × Nat :=
  if st = .none || dt = .none then (b, 0)
  else
    let c := (unpackElems st n b).map (fun w => convert (valueOf st w) dt)
    (packElems dt (c.map Prod.fst), c.foldl (fun m x => m + x.2) 0)

def alignOf (t : ETy) : Nat := if t = .none then 1 else elemBytes t

def locAlign (s : State) (l : Loc) (t : ETy) : WorkM Unit :=
  match l with
  | .va a => workAlign s a (alignOf t)
  | .tile _ base => workAlign s (BitVec.ofNat 64 base) (alignOf t)
  | .hand _ _ _ o => workAlign s o (alignOf t)

/-- `cpy` (R200). -/
def workCpy (s : State) (i : Issuer) (d a : Loc) (len : Word) (dt st : ETy) : WorkM (State × Nat) := do
  let n := len.toNat
  if n = 0 then pure (s, 0)
  else do
    locAlign s a st
    locAlign s d dt
    let (s1, p) ← ranges s i [⟨a, 0, spanOf st n, needR⟩, ⟨d, 0, spanOf dt n, needW⟩]
    let rd := p.getD 0 []
    let wr := p.getD 1 []
    if overlaps rd wr then cmdFault s1 i 0x02 6
    else do
      workReady s1 i rd wr
      let (s2, b) ← readPieces i s1 rd
      let (out, sats) := convertBytes st dt n b
      pure (writePieces i (oddHalf dt n) s2 wr out, sats)

/-- The rows an index list names, none for a row of zeros (R201); a row past the end of a handle's region faults (R197 step
5). -/
def rowRanges (s : State) (src : Loc) (row limit : Nat) : List Nat → WorkM (List (Option Rng))
  | [] => .ok []
  | k :: r => do
    if k = 0xFFFFFFFF then
      let l ← rowRanges s src row limit r
      pure (none :: l)
    else if limit ≠ 0 && decide (0 < row) && decide (limit < (k + 1) * row) then
      .error (.fault ⟨0x07, BitVec.ofNat 64 ((k + 1) * row - 1), BitVec.ofNat 64 limit, 0, 0, none⟩ s)
    else do
      let l ← rowRanges s src row limit r
      pure (some ⟨src, k * row, row, needR⟩ :: l)

/-- The rows of a gather, converted: each row's bytes and whether its last byte keeps a half (R200, R201). -/
def gatherRows (i : Issuer) (rl row' : Nat) (dt st : ETy) : State → List (Option (List Piece)) →
    WorkM (State × List (List Byte × Bool) × Nat)
  | s, [] => .ok (s, [], 0)
  | s, none :: r => do
    let (s1, b, n) ← gatherRows i rl row' dt st s r
    pure (s1, (List.replicate row' 0, false) :: b, n)
  | s, some p :: r => do
    let (s1, x) ← readPieces i s p
    let c := convertBytes st dt rl x
    let (s2, b, n) ← gatherRows i rl row' dt st s1 r
    pure (s2, (c.1, oddHalf dt rl) :: b, c.2 + n)

/-- Destination rows written, each from its own pieces. -/
def writeRows (i : Issuer) : State → List (List Piece) → List (List Byte × Bool) → State
  | s, p :: r, b :: c => writeRows i (writePieces i b.2 s p b.1) r c
  | s, _, _ => s

/-- `cpyg` (R201). The rows are known when the index list has been read; its range, and a destination below it, are
translated before (R197). -/
def workCpyg (s : State) (i : Issuer) (d a : Loc) (list cnt rl : Word) (dt st : ETy) : WorkM (State × Nat) := do
  let n := cnt.toNat
  let row := spanOf st rl.toNat
  let row' := spanOf dt rl.toNat
  let limit := match a with | .hand _ _ nrow _ => nrow * regionRow | _ => 0
  let whole : Rng := ⟨d, 0, n * row', needW⟩
  let named : Rng := ⟨.va list, 0, 4 * n, needR⟩
  workAlign s list 4
  locAlign s a st
  locAlign s d dt
  let (s1, lp) ← ranges s i (if whole.key < named.key then [named, whole] else [named])
  workReady s1 i (lp.getD 0 []) []
  let (s2, lb) ← readPieces i s1 (lp.getD 0 [])
  let rows ← rowRanges s2 a row limit (words32 n lb)
  let dst : List Rng := (List.range n).map (fun j => ⟨d, j * row', row', needW⟩)
  let (s3, p) ← ranges s2 i (dst ++ rows.filterMap (fun r => r))
  let wr := p.take n
  let src := p.drop n
  if overlaps src.flatten wr.flatten then cmdFault s3 i 0x02 6
  else do
    workReady s3 i src.flatten wr.flatten
    let rds := (List.range n).map (fun j =>
      (rows.getD j none).map (fun _ => src.getD ((rows.take j).countP Option.isSome) []))
    let (s4, b, sats) ← gatherRows i rl.toNat row' dt st s3 rds
    pure (writeRows i s4 wr b, sats)

/-- One row of a drained tile: its bytes, its scales and its saturations (R202, R39). -/
def drainRow (t : Tile) (mx : Bool) (dt : ETy) (b : List Byte) : List Byte × List Byte × Nat :=
  if mx then
    let blocks := (groups32 (t.rlen / 32) (unpackElems t.ty t.rlen b)).map (fun g => mxScale (g.map (valueOf t.ty)) dt)
    (packElems dt (blocks.flatMap (fun x => x.2.1)), blocks.map Prod.fst, blocks.foldl (fun n x => n + x.2.2) 0)
  else
    let c := convertBytes t.ty dt t.rlen b
    (c.1, [], c.2)

/-- The destination of a `drain`: elements, and scales under MX (R202). -/
def drainRanges (d : Word) (t : Tile) (scales : Word) (mx : Bool) (dt : ETy) : List Rng :=
  [⟨.va d, 0, t.nr * rowBytesOf (if dt = .none then t.ty else dt) t.rlen, needW⟩,
    ⟨.va scales, 0, if mx then t.nr * (t.rlen / 32) else 0, needW⟩]

/-- `drain` (R202). R202 states no alignment of D: it is that of an element of DT, and none where the bytes go unchanged, as
R200 has it for `cpy` (log entry 74). -/
def workDrain (s : State) (i : Issuer) (d : Word) (t : Tile) (scales : Word) (mx : Bool) (dt : ETy) :
    WorkM (State × Nat) := do
  workAlign s d (alignOf dt)
  let (s1, p) ← ranges s i (drainRanges d t scales mx dt)
  let dp := p.getD 0 []
  let sp := p.getD 1 []
  let region := cutLines (tileSize t / 128 + 2) ⟨0, .scratch (tilePa i.core t), 0, tileSize t⟩
  if overlaps region (dp ++ sp) then cmdFault s1 i 0x02 6
  else do
    workReady s1 i [] (dp ++ sp)
    match poisonIn s1 (tilePa i.core t) (t.nr * tileRowBytes t) with
    | some l => .error (.fault (uncorrectable 0 l 0) s1)
    | none =>
    let rows := (List.range t.nr).map (fun r =>
      drainRow t mx dt (tileRead s1 i.core t (r * tileRowBytes t) (tileRowBytes t)))
    let s2 := writePieces i false s1 dp (rows.flatMap Prod.fst)
    let s3 := writePieces i false s2 sp (rows.flatMap (fun r => r.2.1))
    pure (s3, rows.foldl (fun n r => n + r.2.2) 0)

/-! ### Issue of the copy commands (R197, R199 to R202) -/

/-- Bounds of a handle side: its last byte against the region's end (R197 step 5, R199). A side without a byte makes no
access (R200; log entry 81). -/
def handleBounds (h : Handle) (off n : Nat) : Res Unit :=
  if n ≠ 0 && decide (h.nrow * regionRow < off + n) then boundsFault (off + n - 1) (h.nrow * regionRow) else .ok ()

/-- Code 0xF in a type field (R22). -/
def typeCodes (s : State) (l : List (BitVec 4)) : Res Unit := need (l.all (fun t => t ≠ 15)) (illegalOperand s 5)

/-- The checks of the type fields DT and ST that `cpy` and `cpyg` share (Tables 8.9 and 3.4). Where TAG_MISMATCH stands among
the checks of OP 0x30 R197 does not say: cbx in a type field faults with the fields, before R197's list (log entry 73). -/
def copyTypes (s : State) (dt st : BitVec 4) : Res Unit := do
  typeCodes s [dt, st]
  need ((dt = 0) = (st = 0)) (illegalOperand s 5)
  need (dt ≠ 14 && st ≠ 14) (tagMismatch s 5)

def isTile : Spec → Bool
  | .t _ => true
  | _ => false

/-- A tile operand's entry, or nothing for an address (R197 step 1). -/
def tileIf (c : Ctx) (sp : Spec) : Res (Option Tile) :=
  if isTile sp then do
    let t ← needTile c sp
    pure (some t)
  else pure none

/-- A handle operand's slot, where its flag is set (R197 step 2). -/
def handleIf (s : State) (flag : Bool) (h : Word) : Res (Option Handle) :=
  if flag then do
    let e ← needHandle s h
    pure (some e)
  else pure none

/-- A tile destination is empty and starts to fill, or the sequencer stalls. -/
def takeTile (s s1 : State) (t : Option Tile) (sp : Spec) : Res State :=
  match t with
  | none => .ok s1
  | some t => if t.st = .empty then .ok (fillTile s1 (curKey s) (tileNo sp)) else stallIn s .tile

def execCpy (hd hs : Bool) (dt st : BitVec 4) (scope : BitVec 3) (d a b cc : Spec) (s : State) : Out :=
  finish s (do
    let c := curCtx s
    let (s1, v) ← gateWith s ([opD .tileOrSrc d, opA .ssrc a, opB .ssrc b] ++ if hd || hs then [opC .ssrc cc] else [])
      (copyTypes s dt st)
    engineReady s false
    let td ← tileIf c d
    let hDst ← handleIf s (hd && td.isNone) (valAt v 0)
    let hSrc ← handleIf s hs (valAt v 1)
    need (!(hd && (hs || td.isSome))) (illegalOperand s 5)
    let n := (valAt v 2).toNat
    let dty := tyOfCode dt
    let sty := tyOfCode st
    need (match td with | some t => spanOf dty n = tileSize t | none => true) (illegalOperand s 6)
    need (match hSrc, hDst with | some h, _ => h.hr | _, some h => h.hw | _, _ => true) (faultWith 0x06 0 0 0)
    let off := valAt v 3
    (match hSrc with | some h => handleBounds h off.toNat (spanOf sty n) | none => pure ())
    (match hDst with | some h => handleBounds h off.toNat (spanOf dty n) | none => pure ())
    let src : Loc := match hSrc with | some h => .hand h.stk h.lo h.nrow off | none => .va (valAt v 1)
    let dst : Loc := match td, hDst with
      | some t, _ => .tile (tileNo d) t.base
      | none, some h => .hand h.stk h.lo h.nrow off
      | none, none => .va (valAt v 0)
    let s2 ← takeTile s s1 td d
    let pin := if hs then some (handleSlot (valAt v 1)) else if hd then some (handleSlot (valAt v 0)) else none
    pure (retire (issueCmd s2 (.cpy dst src (valAt v 2) dty sty) scope pin [⟨dst, 0, spanOf dty n, needW⟩])))

/-- `cpyg` (R201). It has no handle destination (Table 8.8): its flag HD faults with no look at D (log entry 87). -/
def execCpyg (hd hs : Bool) (dt st : BitVec 4) (scope : BitVec 3) (d a b cc : Spec) (s : State) : Out :=
  finish s (do
    let c := curCtx s
    let (s1, v) ← gateWith s [opD .tileOrSrc d, opA .ssrc a, opB .ssrc b, opC .ssrc cc] (copyTypes s dt st)
    engineReady s false
    let td ← tileIf c d
    let hSrc ← handleIf s hs (valAt v 1)
    need (!hd) (illegalOperand s 5)
    let dty := tyOfCode dt
    let sty := tyOfCode st
    let rl := (curSeq s).rl
    need (match td with
      | some t => decide ((valAt v 3).toNat ≤ t.rows) && spanOf dty rl.toNat = tileRowBytes t
      | none => true) (illegalOperand s 6)
    need (match hSrc with | some h => h.hr | none => true) (faultWith 0x06 0 0 0)
    let src : Loc := match hSrc with | some h => .hand h.stk h.lo h.nrow 0 | none => .va (valAt v 1)
    let dst : Loc := match td with | some t => .tile (tileNo d) t.base | none => .va (valAt v 0)
    let s2 ← takeTile s s1 td d
    let pin := if hs then some (handleSlot (valAt v 1)) else none
    pure (retire (issueCmd s2 (.cpyg dst src (valAt v 2) (valAt v 3) rl dty sty) scope pin
      [⟨dst, 0, (valAt v 3).toNat * spanOf dty rl.toNat, needW⟩])))

/-- `drain` (R202). Its TAG_MISMATCH for the tile's type stands between R197's steps 1 and 3, the one for cbx with the type
fields (log entry 73), after the combinations that MX excludes (R58). -/
def execDrain (mx hd hs : Bool) (dt : BitVec 4) (scope : BitVec 3) (d a b : Spec) (s : State) : Out :=
  finish s (do
    let c := curCtx s
    let ty := tyOfCode dt
    let (s1, v) ← gateWith s ([opD .ssrc d, opA .tile a] ++ if mx then [opB .ssrc b] else []) (do
      typeCodes s [dt]
      need (!mx || mxType ty) (illegalOperand s 5)
      need (ty ≠ .cbx) (tagMismatch s 5))
    engineReady s false
    let t ← needTile c a
    need (!t.pf && (t.ty = .f32 || t.ty = .i32)) (tagMismatch s 2)
    need (!hd && !hs) (illegalOperand s 5)
    need (!mx || (t.ty = .f32 && t.rlen % 32 = 0)) (illegalOperand s 2)
    need (!(ty = .f4e2m1 && t.rlen % 2 = 1)) (illegalOperand s 2)
    need (t.st = .ready) (stallIn s .tile)
    let s2 := modTile s1 (curKey s) (tileNo a) (fun t => { t with st := .draining })
    pure (retire (issueCmd s2 (.drain (valAt v 0) (tileNo a) t (valAt v 2) mx ty) scope none
      (drainRanges (valAt v 0) t (valAt v 2) mx ty))))

end Sys2Proof.Machine
end

