-- ==== Sys2Proof/Machine/Kv.lean ====
section
/-!
DEFINITION. The KV commands: `kvgth` with its checks at issue and the prism rotation, and `kvapp` (R321 to R332).
-/

namespace Sys2Proof.Machine

/-! ### The prism (R325 to R327) -/

/-- Σ (−1)^k / ((2k+1) x^(2k+1)), times 2^320; `p` is 2^320 / x^(2k+1). -/
def atanInvSum (x2 : Nat) : Nat → Nat → Nat → Int → Int
  | 0, _, _, acc => acc
  | n + 1, k, p, acc =>
    let t : Int := p / (2 * k + 1)
    atanInvSum x2 n (k + 1) (p / x2) (if k % 2 = 0 then acc + t else acc - t)

/-- π times 2^320. -/
def piFix : Nat :=
  (16 * atanInvSum 25 80 0 (2 ^ fixBits / 5) 0 - 4 * atanInvSum 57121 25 0 (2 ^ fixBits / 239) 0).toNat

/-- The series of sin; `term` is x^(2k+1) / (2k+1)!, times 2^320. -/
def sinSum (x2 : Nat) : Nat → Nat → Nat → Int → Int
  | 0, _, _, acc => acc
  | n + 1, k, term, acc =>
    sinSum x2 n (k + 1) (term * x2 / 2 ^ fixBits / ((2 * k + 2) * (2 * k + 3)))
      (if k % 2 = 0 then acc + term else acc - term)

/-- Entry t[k] of the quarter-wave table (R326; log entry 16). -/
def quarterWave (k : Nat) : FV :=
  if k = 0 then .fin false 0
  else if k = 1024 then .fin false 1
  else
    let x := piFix * k / 2048
    f32Val (f32Of (.fin false (ratOfFix (sinSum (x * x / 2 ^ fixBits) 60 0 x 0).toNat)))

def roundF32 (v : FV) : FV := f32Val (f32Of v)

/-- `SinCos` (R327): sine and cosine of a phase. -/
def sinCos (phase : Nat) : FV × FV :=
  let k := phase / 2 ^ 20 % 1024
  let fr := fvOfRat (mkRat (phase % 2 ^ 20) (2 ^ 20))
  let lerp (a b : FV) : FV := roundF32 (fvAdd a (roundF32 (fvMul (roundF32 (fvSub b a)) fr)))
  let sq := lerp (quarterWave k) (quarterWave (k + 1))
  let cq := lerp (quarterWave (1024 - k)) (quarterWave (1023 - k))
  match phase / 2 ^ 30 with
  | 0 => (sq, cq)
  | 1 => (cq, fvNeg sq)
  | 2 => (fvNeg sq, fvNeg cq)
  | _ => (fvNeg cq, sq)

/-- One rotated pair (R327). -/
def rotatePair (a b : FV) (pos : Int) (f : Nat) : FV × FV :=
  let sc := sinCos (pos * f % 2 ^ 32).toNat
  (roundF32 (fvSub (fvMul a sc.2) (roundF32 (fvMul b sc.1))),
    roundF32 (fvAdd (fvMul a sc.1) (roundF32 (fvMul b sc.2))))

/-- `Prism` (R327); `split` is PR. -/
def prism (split : Bool) (freqs : List Nat) (pos : Int) (x : List FV) : List FV :=
  let h := x.length / 2
  let at_ (i : Nat) : FV := x.getD i .nan
  let ys := freqs.zipIdx.map (fun f =>
    if split then rotatePair (at_ f.2) (at_ (f.2 + h)) pos f.1
    else rotatePair (at_ (2 * f.2)) (at_ (2 * f.2 + 1)) pos f.1)
  if split then ys.map Prod.fst ++ ys.map Prod.snd else ys.flatMap (fun y => [y.1, y.2])

/-! ### Pages (R322, R323) -/

def pageStride (d : Nat) : Nat := 64 + 256 * d
def pageVa (pool : Word) (page d : Nat) : Word := pool + BitVec.ofNat 64 (page * pageStride d)

/-- The element type of a page format. -/
def pageType (fmt : Nat) : ETy := if fmt = 0 then .bf16 else if fmt = 1 then .f8e4m3 else .i8

/-- Offset of key or value row `j` in a page. -/
def pageRow (v : Bool) (d j fmt : Nat) : Nat :=
  64 + (if v then 64 * d * elemBytes (pageType fmt) else 0) + j * d * elemBytes (pageType fmt)

/-- A reserved bit of header bytes 0 to 15 is set. -/
def headerReserved (h : Nat) : Bool := bitsOf h 7 1 ≠ 0 || bitsOf h 12 20 ≠ 0

/-! ### kvgth (R328) -/

/-- An S-class load of bytes inside one line by the executing sequencer. -/
def loadPiece (va : Word) (n : Nat) (s : State) : Res (State × List Byte) := do
  let (s1, h) ← access s va 0 needR
  loadBytes s1 h va 0 n false

/-- S-class loads of a range by the executing sequencer, line by line. -/
def loadRange : Nat → State → Word → Nat → Res (State × List Byte)
  | 0, s, _, _ => .ok (s, [])
  | k + 1, s, va, n =>
    if n = 0 then .ok (s, [])
    else
      let m := min n (128 - va.toNat % 128)
      andThen (loadPiece va m) s (fun x => do
        let (s2, r) ← loadRange k x.1 (va + BitVec.ofNat 64 m) (n - m)
        pure (s2, x.2 ++ r))

/-- The loads of a range, and what follows them. -/
def afterLoad {β : Type} (k : Nat) (va : Word) (n : Nat) (s : State) (f : State × List Byte → Res β) : Res β :=
  andThen (fun t => loadRange k t va n) s f

/-- The block-table entries with their page headers, ascending (step 5). -/
def kvEntries (bt : Word) (d : Nat) : State → List Nat → Res (State × List KvEnt)
  | s, [] => .ok (s, [])
  | s, e :: r =>
    let p := partAt s (curPart s)
    afterLoad 2 (bt + BitVec.ofNat 64 (8 * e)) 8 s (fun (s1, eb) => do
      let page := leNat (eb.take 4)
      need (page < p.kvpages.toNat) (boundsFault page p.kvpages.toNat)
      let va := pageVa p.kvpool page d
      afterLoad 2 va 16 s1 (fun (s2, hb) => do
        let h := leNat hb
        need (bitsOf h 8 2 ≠ 3 && !headerReserved h) (illegalOperand s 6)
        let (s3, l) ← kvEntries bt d s2 r
        pure (s3, ⟨va, (BitVec.ofNat 32 (leNat (eb.drop 4))).toInt, bitsOf h 8 2, BitVec.ofNat 32 (bitsOf h 64 32),
          BitVec.ofNat 32 (bitsOf h 96 32)⟩ :: l)))

/-- The prism set: its pairing and frequency words (step 6). -/
def prismSet (s : State) (set d : Nat) (ty : ETy) : Res (State × Bool × List Nat) :=
  let va := (partAt s (curPart s)).prism + BitVec.ofNat 64 (1024 * set)
  afterLoad 8 va (64 + 2 * d) s (fun (s1, b) => do
    let h := leNat (b.take 64)
    need (bitsOf h 8 4 = set && bitsOf h 0 2 ≠ 3 && 64 * 2 ^ bitsOf h 0 2 = d && bitsOf h 3 1 = 0 && bitsOf h 12 500 = 0)
      (illegalOperand s 6)
    need (bitsOf h 4 4 = (tyCode ty).toNat) (tagMismatch s 2)
    pure (s1, bitsOf h 2 1 = 1, words32 (d / 2) (b.drop 64)))

def execKvgth (v nr : Bool) (set : BitVec 4) (scope : BitVec 3) (d a b cc : Spec) (s : State) : Out :=
  finish s (do
    let c := curCtx s
    let (s1, vals) ← gate s [opD .sdst d, opA .tile a, opB .ssrc b, opC .ssrc cc]
    engineReady s false
    let t ← needTile c a
    let hd := t.rlen
    need (!t.pf && !t.mx && (hd = 64 || hd = 128 || hd = 256) && decide (t.rows ≤ 1024)) (illegalOperand s 2)
    need (t.ty = .bf16 || t.ty = .f8e4m3 || t.ty = .f32) (tagMismatch s 2)
    let bt := valAt vals 2
    need (bt.toNat % 8 = 0) (misaligned bt 0)
    mayAccess s .s
    let len := bitsOf (valAt vals 3).toNat 0 32
    let f := bitsOf (valAt vals 3).toNat 32 32
    let n := min t.rows (len - f)
    let cnt := if n = 0 then 0 else (f + n - 1) / 64 + 1 - f / 64
    let (s3, rot) ← andThen (fun u => kvEntries bt hd u ((List.range cnt).map (· + f / 64))) s1 (fun (s2, ents) =>
      if v || nr then pure (s2, ents, none)
      else do
        let (s3, r) ← prismSet s2 set.toNat hd t.ty
        pure (s3, ents, some r))
    let ents := rot.1
    need (t.st = .empty) (stallIn s .tile)
    let s4 := writeDst (dropAnswers (fillTile s3 (curKey s) (tileNo a))) d (BitVec.ofNat 64 n)
    pure (retire (issueCmd s4 (.kvgth (tileNo a) t v f n ents rot.2) scope none [])))

/-- The page rows a gather reads, in order: the entry, the row in its page and its range. -/
def kvRowRange (ents : List KvEnt) (v : Bool) (d first r : Nat) : KvEnt × Nat × Rng :=
  let t := first + r
  let e := ents.getD (t / 64 - first / 64) default
  (e, t % 64, ⟨.va e.page, pageRow v d (t % 64) e.fmt, d * elemBytes (pageType e.fmt), needR⟩)

/-- The values of one gathered row before its conversion (R328). -/
def kvRowValues (e : KvEnt) (v : Bool) (d j : Nat) (rot : Option (Bool × List Nat)) (b : List Byte) : List FV :=
  let sc := f32Val ((if v then e.vsc else e.ksc).zeroExtend 64)
  let ty := pageType e.fmt
  let x := (unpackElems ty d b).map (fun w =>
    match sc with
    | .fin _ _ => roundF32 (fvMul (valueOf ty w) sc)
    | _ => .nan)
  match rot with
  | none => x
  | some r => prism r.1 r.2 (e.base + j) x

def kvGatherRows (i : Issuer) (v : Bool) (d : Nat) (ty : ETy) (rot : Option (Bool × List Nat)) : State →
    List (KvEnt × Nat × List Piece) → WorkM (State × List Byte × Nat)
  | s, [] => .ok (s, [], 0)
  | s, (e, j, p) :: r => do
    let (s1, b) ← readPieces i s p
    let c := (kvRowValues e v d j rot b).map (fun x => convert x ty)
    let (s2, rest, n) ← kvGatherRows i v d ty rot s1 r
    pure (s2, packElems ty (c.map Prod.fst) ++ rest, c.foldl (fun m x => m + x.2) n)

/-- `kvgth` at work (R328). -/
def workKvgth (s : State) (i : Issuer) (t : Tile) (v : Bool) (first n : Nat) (ents : List KvEnt)
    (rot : Option (Bool × List Nat)) : WorkM (State × Nat) := do
  let rows := (List.range n).map (kvRowRange ents v t.rlen first)
  let (s1, p) ← ranges s i (rows.map (fun r => r.2.2))
  workReady s1 i p.flatten []
  let (s2, b, sats) ← kvGatherRows i v t.rlen t.ty rot s1 (List.zipWith (fun r x => (r.1, r.2.1, x)) rows p)
  pure (homeWrite s2 (tilePa i.core t) (b ++ List.replicate ((t.rows - n) * tileRowBytes t) 0), sats)

/-! ### kvapp (R329 to R331) -/

/-- The faults of R177 for a range, made at issue by the sequencer. -/
def checkRange (w : Need) : Nat → State → Word → Nat → Res State
  | 0, s, _, _ => .ok s
  | k + 1, s, va, n =>
    if n = 0 then .ok s
    else
      let m := min n (8192 - va.toNat % 8192)
      andThen (fun t => access t va 0 w) s (fun x => checkRange w k x.1 (va + BitVec.ofNat 64 m) (n - m))

def execKvapp (st : BitVec 4) (fmt dc : BitVec 2) (scope : BitVec 3) (a b cc : Spec) (s : State) : Out :=
  finish s (do
    let ty := tyOfCode st
    let (s1, v) ← gateWith s [opA .ssrc a, opB .ssrc b, opC .ssrc cc]
      (need ((ty = .bf16 || ty = .f32) && fmt ≠ 3 && dc ≠ 3) (illegalOperand s 5))
    engineReady s false
    let p := partAt s (curPart s)
    let hd := 64 * 2 ^ dc.toNat
    let page := valAt v 1
    need (page.toNat < p.kvpages.toNat) (boundsFault page.toNat p.kvpages.toNat)
    need ((valAt v 0).toNat % elemBytes ty = 0) (misaligned (valAt v 0) 0)
    need ((valAt v 2).toNat % 8 = 0) (misaligned (valAt v 2) 0)
    let rows := 128 * hd * elemBytes (pageType fmt.toNat)
    let va := pageVa p.kvpool page.toNat hd
    let check (w : Need) (k : Nat) (a : Word) (n : Nat) (u : State) : Res (State × Unit) := do
      let t ← checkRange w k u a n
      pure (t, ())
    let (s5, _) ← andThen (check needR 3 (valAt v 0) (2 * hd * elemBytes ty)) s1 (fun x =>
      andThen (check needR 2 (valAt v 2) 8) x.1 (fun x =>
        andThen (check needRW 2 va 16) x.1 (fun x => check needW (rows / 8192 + 2) (va + 64) rows x.1)))
    pure (retire (issueCmd s5 (.kvapp ty fmt dc (valAt v 0) page (valAt v 2) p.kvpool p.kvpages) scope none
      [⟨.va va, 0, 16, needRW⟩])))

/-! ### The header's atomic access (R323, R330; log entry 24) -/

/-- Bytes `o` to `o + n` of a range's pieces. -/
def slicePieces : List Piece → Nat → Nat → List Piece
  | [], _, _ => []
  | p :: r, o, n =>
    if n = 0 then []
    else if o < p.n then
      let m := min n (p.n - o)
      { p with va := p.va + o, tgt := advance o p.tgt, n := m } :: slicePieces r 0 (n - m)
    else slicePieces r (o - p.n) n

/-- The core takes the header's line for its atomic access (Table 8.4): a host line of an L1+L2 page. -/
def takesHeader (p : Piece) : Option Nat :=
  match p.tgt with
  | .host pa => if leafCL p.leaf = 0 then some pa else none
  | _ => none

/-- THE HEADER AS ITS ATOMIC ACCESS FINDS IT, once the issuing core's own writes to it have performed: at its home in this
package; of a host line that the host has given up (RdOwn, Table 8.4); where the host or another package executes atomics,
by a read, which a compare-and-swap confirms. -/
def headerRead (s : State) (i : Issuer) (hp : List Piece) : WorkM (State × List Byte) :=
  let p := hp.headD default
  match takesHeader p with
  | some pa =>
    match cmdAsks s i p.tgt 16 0x02 (128 * lineOf pa) 1 0 with
    | some g => .error (.wait g)
    | none =>
      match cmdAnswer s i.id (128 * lineOf pa) 1 with
      | some a =>
        if a.denied then .error (.fault (accessDenied p.va 0) s)
        else if a.ps then .error (.fault (uncorrectable p.va (lineOf pa) 0) s)
        else .ok (s, listSlice a.bytes (pa % 128) 16)
      | none => .error (.wait (fun t => t))
  | none =>
    if hp.any (fun q => writesBefore s i (targetPa q.tgt) q.n) then .error (.wait (fun t => t))
    else do
      workReady s i hp (match p.tgt with | .device _ | .own _ => hp | _ => [])
      readPieces i s hp

/-- The answers of a command go; a host line it took, and has not written, goes back as it came. -/
def dropCmdAnswers (s : State) (n part : Nat) : State :=
  let mine := (s.answers.map Prod.snd).filter (fun a => a.ask.who = .cmd n)
  let s1 := { s with answers := s.answers.filter (fun e => e.2.ask.who ≠ .cmd n) }
  (mine.filter (fun a => a.ask.code = 0x02 && !a.denied)).foldl
    (fun s a => returnLine (dropHostLine s (lineOf a.ask.addr)) part (lineOf a.ask.addr) a.bytes a.ps) s1

/-- What a command has read of a header is out of date: its answers about the header's line go. -/
def rereadHeader (i : Issuer) (pa : Nat) (t : State) : State :=
  { t with answers := t.answers.filter (fun e => !(e.2.ask.who = .cmd i.id && e.2.ask.addr / 128 = pa / 128)) }

/-- The sixteen bytes of a header outside the package are swapped for the ones they were read as, by one compare-and-swap at
their home: one atomic access (R323, R330). Where it finds other bytes all is read again. -/
def swapHeader (s : State) (i : Issuer) (p : Piece) (code link old new : Nat) : WorkM State :=
  let pa := targetPa p.tgt
  let mine (a : Ask) : Bool := a.who = .cmd i.id && a.addr = pa && decide (2 ^ 128 ≤ a.extra)
  match s.answers.find? (fun e => mine e.2.ask) with
  | some (_, a) =>
    if a.denied then .error (.fault (accessDenied p.va 0) s)
    else if a.ps then .error (.fault (uncorrectable p.va (lineOf pa) 0) s)
    else if leNat (a.bytes.take 16) = old && a.ask.extra = 2 ^ 128 + old then .ok s
    else .error (.wait (rereadHeader i pa))
  | none =>
    .error (.wait (fun t =>
      if hasAsk t mine then t
      else
        sendAsk (if link = 0 then dropHostLine t (lineOf pa) else t) (.cmd i.id) code pa (2 ^ 128 + old) link i.part
          (leBytes 1 (atomicCode .cas) ++ leBytes 1 16 ++ leBytes 16 new ++ leBytes 16 old)))

/-- THE HEADER WRITTEN: word 0 and, on a first append, the scale pair; GEN stays as it is (R323). Where the host or another
package executes atomics, bytes 0 to 15 are swapped by one atomic of sixteen bytes (log entry 24). -/
def headerWrite (s : State) (i : Issuer) (hp : List Piece) (old new : Nat) (pair : Bool) : WorkM State :=
  let p := hp.headD default
  match takesHeader p, p.tgt with
  | some pa, _ =>
    let line := match cmdAnswer s i.id (128 * lineOf pa) 1 with | some a => a.bytes | none => []
    let b := leBytes 4 new ++ leBytes 4 (bitsOf old 32 32) ++ leBytes 8 (bitsOf new 64 64)
    .ok (returnLine (dropHostLine { s with
        answers := s.answers.filter (fun e => !(e.2.ask.who = .cmd i.id && e.2.ask.code = 0x02)) } (lineOf pa)) i.part
      (lineOf pa) (listSet line (pa % 128) b) false)
  | none, .host _ => swapHeader s i p 0x0A 0 old new
  | none, .fabric node _ => swapHeader s i p 0x03 (routeOf s node) old new
  | none, _ =>
    let s1 := writePieces i false s (slicePieces hp 0 4) (leBytes 4 new)
    .ok (if pair then writePieces i false s1 (slicePieces hp 8 8) (leBytes 8 (bitsOf new 64 64)) else s1)

/-- `PageSat` (R330): every result out of range is the largest finite value, counted. -/
def pageSat (v : FV) (t : ETy) : Conv :=
  match v with
  | .nan => convert v t
  | .inf neg => satCount t (!neg)
  | .fin neg q =>
    let y := roundGrid (decide (tyWidth t < 16)) t q
    if maxFinite t < y || y < minFinite t then satCount t (!neg && decide (0 ≤ q)) else convert v t

/-- A header with the fields of a first append: FMT, OVK = OVV = 0 and the scale pair (R330). -/
def freshHeader (h fmt pair : Nat) : Nat :=
  bitsOf h 0 8 + fmt * 2 ^ 8 + bitsOf h 12 52 * 2 ^ 12 + pair * 2 ^ 64

/-- A row of the append, converted: its bytes and its saturations. -/
def appendRow (src : List Word) (st ty : ETy) (scale : Nat) : List Byte × Nat :=
  let c := src.map (fun w => pageSat (fvQuot (valueOf st w) (f32Val (BitVec.ofNat 64 scale))) ty)
  (packElems ty (c.map Prod.fst), c.foldl (fun n x => n + x.2) 0)

/-- The KV_OVERFLOW event (Table 15.6). -/
def kvOverflow (s : State) (i : Issuer) (page j nk nv : Nat) : State :=
  if nk + nv = 0 then s
  else
    logEvent s i.part 6 (eventHead s 0x46 i.part i.slot + i.pc.toNat * 2 ^ 128 + page % 2 ^ 32 * 2 ^ 192 + j * 2 ^ 224 +
      (if nk = 0 then 0 else 2 ^ 230) + (if nv = 0 then 0 else 2 ^ 231) + (nk + nv) * 2 ^ 256)

/-- `kvapp` AT WORK (R330). -/
def workKvapp (s : State) (i : Issuer) (st : ETy) (fmt dc : BitVec 2) (a b c : Word) (pool : Word) :
    WorkM (State × Nat) := do
  let hd := 64 * 2 ^ dc.toNat
  let ty := pageType fmt.toNat
  let w := elemBytes ty
  let page := pageVa pool b.toNat hd
  let (s1, p) ← ranges s i [⟨.va a, 0, 2 * hd * elemBytes st, needR⟩, ⟨.va c, 0, 8, needR⟩, ⟨.va page, 0, 16, needRW⟩,
    ⟨.va page, 64, 128 * hd * w, needW⟩]
  let src := p.getD 0 []
  let pr := p.getD 1 []
  let hp := p.getD 2 []
  workReady s1 i (src ++ pr) []
  let (sr, sb) ← readPieces i s1 src
  let (s2, hb) ← headerRead sr i hp
  let h := leNat hb
  let ntok := bitsOf h 0 7
  if headerReserved h then cmdFault s2 i 0x02 6
  else if 64 ≤ ntok then .error (.fault ⟨0x07, BitVec.ofNat 64 ntok, 64, 0, 0, none⟩ s2)
  else if ntok ≠ 0 && bitsOf h 8 2 ≠ fmt.toNat then cmdFault s2 i 0x02 6
  else do
    let kp := slicePieces (p.getD 3 []) (pageRow false hd ntok fmt.toNat - 64) (hd * w)
    let vp := slicePieces (p.getD 3 []) (pageRow true hd ntok fmt.toNat - 64) (hd * w)
    workReady s2 i [] (kp ++ vp)
    let (s4, pb) ← (if ntok = 0 then readPieces i s2 pr else pure (s2, []))
    let h1 := if ntok = 0 then freshHeader h fmt.toNat (leNat pb) else h
    let el := unpackElems st (2 * hd) sb
    let k := appendRow (el.take hd) st ty (bitsOf h1 64 32)
    let v := appendRow (el.drop hd) st ty (bitsOf h1 96 32)
    let h2 := (h1 + 1) ||| (if k.2 = 0 then 0 else 2 ^ 10) ||| (if v.2 = 0 then 0 else 2 ^ 11)
    let s5 ← headerWrite s4 i hp h h2 (decide (ntok = 0))
    let s6 := writePieces i false (writePieces i false s5 kp k.1) vp v.1
    pure (kvOverflow s6 i b.toNat ntok k.2 v.2, k.2 + v.2)

end Sys2Proof.Machine
end

