-- ==== Sys2Proof/Machine/Collective.lean ====
section
/-!
DEFINITION. Collectives (R203 to R205, R44), and the completion of every command of the copy engines and of the
collective engine (R196).
-/

namespace Sys2Proof.Machine

/-! ### Issue (R203, R204) -/

/-- The type fields a collective function takes: FN 0 and 3 reduce, 1 and 2 move (R204). A reducing function converts its
results, and cbx there is a TAG_MISMATCH (R31). The moving ones convert nothing: a DT other than 0 is illegal there, also
one equal to T, which R204 does not say (log entry 75). -/
def collTypes (s : State) (fn : BitVec 8) (op dt t : BitVec 4) : Res Unit := do
  let ty := tyOfCode t
  if fn = 0 || fn = 3 then do
    typeCodes s [dt, t]
    need ((ty = .i32 || ty = .i64 || ty = .f32 || ty = .bf16 || ty = .f16) && decide (op.toNat < 3)) (illegalOperand s 5)
    need (tyOfCode dt ≠ .cbx) (tagMismatch s 5)
  else need (tyNumeric ty && dt = 0) (illegalOperand s 5)

/-- A valid descriptor (R203). -/
def collDescOk (h : Nat) : Bool :=
  let n := bitsOf h 64 12
  n ≠ 0 && decide (bitsOf h 80 12 < n) && decide (bitsOf h 96 12 < n) && bitsOf h 76 4 = 0 && bitsOf h 92 4 = 0 &&
    bitsOf h 108 20 = 0 && bitsOf h 192 320 = 0

/-- The captured operands of a collective command. -/
structure CollCmd where
  fn : BitVec 8
  op : BitVec 4
  dt : ETy
  t : ETy
  d : Word
  a : Word
  count : Nat
  gtag : BitVec 32
  seq : BitVec 32
  n : Nat
  rank : Nat
  root : Nat
  rtab : Word
  deriving DecidableEq, Repr, Inhabited

/-- The result type. -/
def collOut (c : CollCmd) : ETy := if c.dt = .none then c.t else c.dt

/-- Elements a rank contributes. -/
def collSourceCount (c : CollCmd) : Nat :=
  if c.fn = 3 then c.n * c.count else if c.fn = 1 && c.rank ≠ c.root then 0 else c.count

/-- Elements written at D. -/
def collResultCount (c : CollCmd) : Nat := if c.fn = 2 then c.n * c.count else c.count

/-- The range of D. -/
def collDest (c : CollCmd) : Rng := ⟨.va c.d, 0, spanOf (collOut c) (collResultCount c), needW⟩

def CollCmd.kind (c : CollCmd) : CmdKind :=
  .coll c.fn c.op c.dt c.t c.d c.a c.count c.gtag c.seq c.n c.rank c.root c.rtab

/-- Issue of `coll`: the descriptor and the own rank's table entry are read and checked (R203). -/
def collIssue (s : State) (fn : BitVec 8) (op dt t : BitVec 4) (scope : BitVec 3) (d a b cc : Spec) : Out :=
  finish s (do
    let (s1, v) ← gateWith s [opD .ssrc d, opA .ssrc a, opB .ssrc b, opC .ssrc cc] (collTypes s fn op dt t)
    engineReady s true
    let c := valAt v 3
    need (c.toNat % 64 = 0) (misaligned c 0)
    afterLoad 2 c 64 s1 (fun (s2, hb) => do
      let h := leNat hb
      need (collDescOk h) (illegalOperand s 6)
      let rtab : Word := BitVec.ofNat 64 (bitsOf h 128 64)
      let rank := bitsOf h 80 12
      let ea := rtab + BitVec.ofNat 64 (4 * rank)
      need (rtab.toNat % 4 = 0) (misaligned ea 0)
      afterLoad 2 ea 4 s2 (fun (s3, eb) => do
        need (bitsOf (leNat eb) 13 19 = 0) (illegalOperand s 6)
        let k : CollCmd :=
          { fn := fn, op := op, dt := tyOfCode dt, t := tyOfCode t, d := valAt v 0, a := valAt v 1,
            count := (valAt v 2).toNat, gtag := BitVec.ofNat 32 (bitsOf h 0 32), seq := BitVec.ofNat 32 (bitsOf h 32 32),
            n := bitsOf h 64 12, rank := rank, root := bitsOf h 96 12, rtab := rtab }
        pure (retire (issueCmd (dropAnswers s3) k.kind scope none [collDest k])))))

def execCollAred (op dt t : BitVec 4) (scope : BitVec 3) (d a b cc : Spec) (s : State) : Out :=
  collIssue s 0 op dt t scope d a b cc
def execCollBcast (dt t : BitVec 4) (scope : BitVec 3) (d a b cc : Spec) (s : State) : Out :=
  collIssue s 1 0 dt t scope d a b cc
def execCollAgth (dt t : BitVec 4) (scope : BitVec 3) (d a b cc : Spec) (s : State) : Out :=
  collIssue s 2 0 dt t scope d a b cc
def execCollRsct (op dt t : BitVec 4) (scope : BitVec 3) (d a b cc : Spec) (s : State) : Out :=
  collIssue s 3 op dt t scope d a b cc

/-! ### Contributions (R204, R205) -/

/-- What the device compares (R205): FN, M[11:0], n and b. -/
def collShape (c : CollCmd) : CollShape :=
  ⟨c.fn, BitVec.ofNat 12 ((tyCode c.t).toNat + (tyCode c.dt).toNat * 16 + c.op.toNat * 256), c.n, c.count⟩

/-- Contributions of one collective: the same gtag and seq within one partition. R205 names gtag and seq alone; partitions
share nothing (log entry 77). -/
def sameColl (part : Nat) (gtag seq : BitVec 32) (p : CollPart) : Bool := p.part = part && p.gtag = gtag && p.seq = seq

/-- A rank's contribution joins those of its collective, in place of the same one from before a restart. One of another shape
stays beside it: the mismatch stands until the collective has no command left (R205). -/
def addCollPart (s : State) (p : CollPart) : State :=
  { s with collIn :=
      s.collIn.filter (fun q => !(sameColl p.part p.gtag p.seq q && q.rank = p.rank && q.shape = p.shape)) ++ [p] }

/-- The payload of a Coll frame: who contributes, what R205 compares, the elements (log entry 25). -/
def collPayload (p : CollPart) : List Byte :=
  leBytes 4 p.gtag.toNat ++ leBytes 4 p.seq.toNat ++ leBytes 2 p.rank ++ leBytes 1 p.shape.fn.toNat ++
    leBytes 2 p.shape.mods.toNat ++ leBytes 2 p.shape.n ++ leBytes 8 p.shape.count ++ p.bytes

/-- The contribution is sent once to every other package of the rank table. -/
def sendColl (s : State) (nodes : List Nat) (p : CollPart) : State :=
  (nodes.filter (fun n => n ≠ s.node.toNat)).dedup.foldl (fun s n =>
    sendMsg s (linesOfMsg 0x08 p.part 0 (0x4000000000000 + n * 2 ^ 39) (routeOf s n) (collPayload p))) s

/-- Stage 0: the rank's source is read and its contribution published. A and D stand at multiples of their element's width,
which R204 does not say, at every rank (log entry 76). -/
def workCollSend (s : State) (i : Issuer) (c : CollCmd) : WorkM State := do
  workAlign s c.a (alignOf c.t)
  workAlign s c.d (alignOf (collOut c))
  let (s1, r) ← ranges s i [⟨.va c.a, 0, spanOf c.t (collSourceCount c), needR⟩, collDest c,
    ⟨.va c.rtab, 0, 4 * c.n, needR⟩]
  let src := r.getD 0 []
  let tab := r.getD 2 []
  workReady s1 i (src ++ tab) []
  let (s2, b) ← readPieces i s1 src
  let (s3, tb) ← readPieces i s2 tab
  let p : CollPart := ⟨i.part, c.gtag, c.seq, c.rank, collShape c, b⟩
  let nodes := (words32 c.n tb).map (fun w => w % 2048)
  if nodes.any (fun n => n ≠ s.node.toNat && cutOff s i.core (.fabric n 0)) then .error (.wait (fun t => t))
  else pure (addCollPart (sendColl s3 nodes p) p)

/-- ⊕ of a collective, in its computing type (R44, R131). An integer add wraps modulo 2^W, which no rule says (log entry 101). -/
def collOp (op : BitVec 4) (t : ETy) (a b : Word) : Word :=
  elemMask t (if op = 0 then elAdd t a b else if op = 1 then elMin t a b else elMax t a b)

/-- The results of a rank from the contributions in rank order, with their saturations (R204). -/
def collResult (c : CollCmd) (parts : List (List Byte)) : List Word × Nat :=
  let els (n : Nat) : List (List Word) := parts.map (unpackElems c.t n)
  let reduce (cols : List (List Word)) (from_ : Nat) : List Word × Nat :=
    let r := (List.range c.count).map (fun k =>
      convert (valueOf c.t ((tree (collOp c.op c.t) (cols.map (fun l => some (valAt l (from_ + k))))).getD 0)) (collOut c))
    (r.map Prod.fst, if tyWidth (collOut c) < 16 then r.foldl (fun n x => n + x.2) 0 else 0)
  match c.fn.toNat with
  | 0 => reduce (els c.count) 0
  | 1 => (unpackElems c.t c.count (parts.getD c.root []), 0)
  | 2 => ((els c.count).flatten, 0)
  | _ => reduce (els (c.n * c.count)) (c.rank * c.count)

/-- The contributions to a collective of a partition. -/
def collParts (s : State) (part : Nat) (c : CollCmd) : List CollPart := s.collIn.filter (sameColl part c.gtag c.seq)

/-- A failed edge lies between the collective engines of two ranks of this package (R8, R378). -/
def collCut (s : State) (i : Issuer) (c : CollCmd) : Bool :=
  let die (j : Issuer) : Nat := dieOfCluster (clusterOfCore j.core)
  s.cmds.any (fun e => match e.2.kind with
    | .coll _ _ _ _ _ _ _ g q _ _ _ _ => e.2.issuer.part = i.part && g = c.gtag && q = c.seq && diesCut s (die e.2.issuer) (die i)
    | _ => false)

/-- Stage 1: once all ranks have issued, the result is written (R204, R205). -/
def workCollWrite (s : State) (i : Issuer) (c : CollCmd) : WorkM (State × Nat) :=
  let mine := collParts s i.part c
  if mine.any (fun p => p.shape ≠ collShape c) then cmdFault s i 0x02 6
  else
    let parts := (List.range c.n).map (fun r => (mine.find? (fun p => p.rank = r)).map (fun p => p.bytes))
    if parts.any Option.isNone || collCut s i c then .error (.wait (fun t => t))
    else do
      let (s1, w) ← ranges s i [collDest c]
      let wr := w.getD 0 []
      workReady s1 i [] wr
      let r := collResult c (parts.map (fun p => p.getD []))
      pure (writePieces i (oddHalf (collOut c) (collResultCount c)) s1 wr (packElems (collOut c) r.1), r.2)

/-- The COLL event: another package's contribution arrives (R204, Table 18.7). -/
def execColl (part : BitVec 4) (gtag seq : BitVec 32) (rank : Nat) (shape : CollShape) (bytes : List Byte) (s : State) :
    Out :=
  .next (if s.powered && (partAt s part.toNat).configured then
      addCollPart s ⟨part.toNat, gtag, seq, rank, shape, bytes⟩
    else s)

/-! ### Completion (R196) -/

def setCmd (s : State) (id : Nat) (c : Cmd) : State := { s with cmds := tabPut s.cmds id c }

/-- The saturation class of a command (R36): 3 copies and drains, 4 KV, 6 collectives. -/
def cmdSatClass : CmdKind → Nat
  | .kvgth .. | .kvapp .. => 4
  | .coll .. => 6
  | _ => 3

/-- The tile a command produces, with its rows of valid data, or drains. -/
def cmdTile (c : Ctx) : CmdKind → Option (Nat × Option Nat)
  | .cpy (.tile t _) .. => some (t, some (tileOf c t).rows)
  | .cpyg (.tile t _) _ _ n .. => some (t, some n.toNat)
  | .drain _ t .. => some (t, none)
  | .kvgth t _ _ _ n .. => some (t, some n)
  | _ => none

/-- The context that issued the command still runs the same iteration. -/
def sameIteration (s : State) (i : Issuer) : Bool :=
  match tabGet s.ctxs i.ctx with
  | some c => c.task = i.task && c.iter = i.iter && c.part = i.part
  | none => false

/-- The tile transition of a complete command (R309). -/
def cmdTileDone (s : State) (i : Issuer) (k : CmdKind) : State :=
  if sameIteration s i then
    match cmdTile (ctxAt s i.ctx) k with
    | some (t, some nr) => tileReady s i.ctx t nr
    | some (t, none) => modTile s i.ctx t (fun e => { e with st := .empty, nr := 0 })
    | none => s
  else s

def collGone (s : State) (part : Nat) (gtag seq : BitVec 32) : Bool :=
  !s.cmds.any (fun e => match e.2.kind with
    | .coll _ _ _ _ _ _ _ g q _ _ _ _ => e.2.issuer.part = part && g = gtag && q = seq
    | _ => false)

/-- A command leaves its queue: its answers and what it owns go, and the contributions of a collective with no command
left. -/
def dropCmd (s : State) (id : Nat) (c : Cmd) : State :=
  let s1 := dropCmdAnswers (disown { s with cmds := tabDel s.cmds id } id) id c.issuer.part
  let s2 := movePin s1 c.issuer.part c.issuer.pin (· - 1)
  match c.kind with
  | .coll _ _ _ _ _ _ _ g q _ _ _ _ =>
    if collGone s2 c.issuer.part g q then { s2 with collIn := s2.collIn.filter (fun p => !sameColl c.issuer.part g q p) }
    else s2
  | _ => s2

/-- A command whose writes are made completes, once those to the host and to other packages have performed too; its
saturations are counted then (R82). -/
def cmdWritten (s : State) (id : Nat) (c : Cmd) : State :=
  if s.wts.any (fun e => e.2.cmd = some id) then setCmd s id { c with stage := 2 }
  else
    dropCmd (cmdTileDone (addSat s c.issuer.slot c.issuer.part (cmdSatClass c.kind) c.sats) c.issuer c.kind) id c

/-- A command's work: what its engine does at its turn. -/
def cmdWork (s : State) (id : Nat) (c : Cmd) : Work :=
  let i := c.issuer
  let done (r : WorkM (State × Nat)) : Work := match r with | .ok (t, n) => .done t n | .error w => w
  match c.kind with
  | .cpy d a b dt st => done (workCpy s i d a b dt st)
  | .cpyg d a b n rl dt st => done (workCpyg s i d a b n rl dt st)
  | .drain d _ t sc mx dt => done (workDrain s i d t sc mx dt)
  | .kvgth _ t v f n ents rot => done (workKvgth s i t v f n ents rot)
  | .kvapp st fmt dc a b p pool _ => done (workKvapp s i st fmt dc a b p pool)
  | .coll fn op dt t d a count g q n rank root rtab =>
    let k : CollCmd := ⟨fn, op, dt, t, d, a, count, g, q, n, rank, root, rtab⟩
    if c.stage = 0 then
      match workCollSend s i k with
      | .ok t => .next (setCmd t id { c with stage := 1 })
      | .error w => w
    else done (workCollWrite s i k)

/-- A command faults: it stays, stopped, until the release (R197, R360). -/
def cmdFaults (s : State) (id : Nat) (c : Cmd) (f : FaultReq) : State :=
  raiseCmdFault (dropCmdAnswers (setCmd s id { c with faulted := true }) id c.issuer.part) id c.issuer f

/-- Commands in the order of their hart slots, as R355 takes faults. -/
def insertCmd (e : Nat × Cmd) : List (Nat × Cmd) → List (Nat × Cmd)
  | [] => [e]
  | f :: r => if e.2.issuer.slot ≤ f.2.issuer.slot then e :: f :: r else f :: insertCmd e r

/-- The commands that fault with one: of a collective whose members disagree every command, else it alone (R205). -/
def faultsWith (s : State) (id : Nat) (c : Cmd) : List (Nat × Cmd) :=
  match c.kind with
  | .coll _ _ _ _ _ _ _ g q _ _ _ _ =>
    let parts := s.collIn.filter (sameColl c.issuer.part g q)
    let mine := s.cmds.filter (fun e => e.2.issuer.part = c.issuer.part && !e.2.faulted &&
      (match e.2.kind with | .coll _ _ _ _ _ _ _ g' q' _ _ _ _ => g' = g && q' = q | _ => false))
    if c.stage = 1 && parts.any (fun p => parts.any (fun r => r.shape ≠ p.shape)) then mine.foldr insertCmd [] else [(id, c)]
  | _ => [(id, c)]

/-- ENGINE_COMMAND_COMPLETE (R196): a turn of a command's engine. A stopped command stays as it is, and every command of a
partition whose halt line is up, but for one whose writes are all made or on their way (R353). -/
def execEngineCommandComplete (id : Nat) (s : State) : Out :=
  .next (match tabGet s.cmds id with
    | none => s
    | some c =>
      if c.faulted || (partAt s c.issuer.part).halted || ((partAt s c.issuer.part).line && c.stage ≠ 2) then s
      else if c.stage = 2 then cmdWritten s id c
      else
        let s := leaveQueues s (fun w => w = .cmd id)
        match cmdWork s id c with
        | .fault f t =>
          (faultsWith t id c).foldl (fun t e =>
            cmdFaults t e.1 e.2 (if e.1 = id then f else { f with val := e.2.issuer.word })) (endWalk t (.cmd id))
        | .wait g => endWalk (g s) (.cmd id)
        | .walk g => beginWalk (g s) (.cmd id)
        | .next t => endWalk t (.cmd id)
        | .done t n => cmdWritten (endWalk t (.cmd id)) id { c with sats := n })

end Sys2Proof.Machine
end

