-- ==== Sys2Proof/Machine/Rows.lean ====
section
/-!
DEFINITION. DRAM rows: activation and disturbance counts, alerts and back-off (R345 to R349), refresh (R162, R164),
patrol scrub (R165), and management events to the host (R375).
-/

namespace Sys2Proof.Machine

def rowKey (bank row : Nat) : Nat := 32768 * bank + row

/-- First compute row (R163). -/
def computeRow : Nat := 32256

/-- A MgmtEvent to the host: kind, then the event's record (Table 18.4). -/
def mgmtEvent (s : State) (kind : Nat) (r : EventRec) : State :=
  sendMsg s (linesOfMsg 0x15 0 0 0 0 (leBytes 1 kind ++ leBytes 64 r))

/-- The partition that holds the granule of a row (R366). -/
def partOfRow (s : State) (row : Nat) : Option Nat :=
  (s.parts.find? (fun e => e.2.configured && e.2.gran.getLsbD (row / 64))).map Prod.fst

def alertThreshold (s : State) : Nat := max s.actalert.toNat 64

/-- An alert of a row (R346 to R348); `c` marks a disturbance count. The record and `ctrd.act` show the alert count's low 8
bits (log entry 28). -/
def raiseAlert (s : State) (bank row slot : Nat) (c : Bool) : State :=
  let n := tabD s.alerts bank 0 + 1
  let m : Bool := decide (s.actmgmt.toNat < n)
  let u := bank % 2048
  let s1 := { s with
    alerts := tabPut s.alerts bank n
    backoff := if m && !s.backoff.contains bank then bank :: s.backoff else s.backoff
    pendingRfm := tabPut s.pendingRfm bank (tabD s.pendingRfm bank [] ++ [row]) }
  let record (p : Nat) : EventRec :=
    eventHead s 0x42 p slot + bank / 2048 * 2 ^ 128 + u / 64 * 2 ^ 131 + u % 64 * 2 ^ 136 + m.toNat * 2 ^ 142 +
      c.toNat * 2 ^ 143 + row * 2 ^ 144 + n % 256 * 2 ^ 160
  let s2 := match partOfRow s row with
    | some p => logEvent s1 p 2 (record p)
    | none => s1
  if m then mgmtEvent s2 0 (record ((partOfRow s row).getD 0)) else s2

/-- A count rises; at its threshold it goes back to 0 and the row alerts. -/
def activate (s : State) (bank row n slot : Nat) : State :=
  let k := rowKey bank row
  let t := alertThreshold s
  let a := tabD s.acts k 0 + n
  let s1 := { s with openRows := tabDel s.openRows bank, acts := tabPut s.acts k (if t ≤ a then 0 else a) }
  let s2 := if t ≤ a then raiseAlert s1 bank row slot false else s1
  if computeRow ≤ row then
    let d := tabD s.dists k 0 + n
    let s3 := { s2 with dists := tabPut s2.dists k (if t / 2 ≤ d then 0 else d) }
    if t / 2 ≤ d then raiseAlert s3 bank row slot true else s3
  else s2

/-- An ordinary access at its channel (R345, R164): it waits while its bank runs a wave; whether one that the home slice
serves needs the array, and whether a row stays open after an access, is free (log entry 27). -/
def channelAccess (s : State) (e : Nat × Bool) : State :=
  let pa := 128 * e.1
  let bank := bankId (stackOf pa) (bankOf pa)
  let row := rowOf pa
  if inWave s bank then { s with chan := s.chan ++ [e] }
  else
    let n := s.free
    let s1 := { s with free := n + 1 }
    if e.2 && !Config.reachesRow n then s1
    else
      let s2 := if tabGet s1.openRows bank = some row then s1 else activate s1 bank row 1 0xFFF
      { s2 with openRows := if Config.rowKept n then tabPut s2.openRows bank row else tabDel s2.openRows bank }

/-- The channels serve the accesses that have come. -/
def channelWork (s : State) : State := s.chan.foldl channelAccess { s with chan := [] }

/-- A refresh of rows 8k to 8k + 7 of a bank sets their counts to 0 (R162, R346). -/
def refreshGroup (s : State) (bank grp : Nat) : State :=
  let keys := (List.range 8).map (fun i => rowKey bank (8 * grp + i))
  { s with acts := s.acts.filter (fun e => !keys.contains e.1), dists := s.dists.filter (fun e => !keys.contains e.1)
           openRows := tabDel s.openRows bank }

/-- REFRESH (R162): postponed while the bank runs a wave. -/
def execRefresh (bank grp : Nat) (s : State) : Out :=
  .next (if 16384 ≤ bank || 4096 ≤ grp then s
    else if inWave s bank then { s with postponed := tabPut s.postponed bank (tabD s.postponed bank [] ++ [grp]) }
    else refreshGroup s bank grp)

/-- REFRESH_TEMP_SAMPLE (R162): the two sensors of a stack's base die, in 1/16 °C. -/
def execRefreshTempSample (stack : Nat) (t0 t1 : Int) (s : State) : Out :=
  .next (if 8 ≤ stack then s
    else setStack s stack { stackAt s stack with hot := decide (1360 < t0) || decide (1360 < t1) })

/-- REFRESH_MANAGEMENT (R346): the oldest pending one of a bank that runs no wave; it resets no count. -/
def execRefreshManagement (bank : Nat) (s : State) : Out :=
  .next (match tabD s.pendingRfm bank [] with
    | [] => s
    | _ :: r =>
      if inWave s bank then s
      else { s with pendingRfm := if r.isEmpty then tabDel s.pendingRfm bank else tabPut s.pendingRfm bank r
                    openRows := tabDel s.openRows bank })

/-- The alert counts go back to 0, and back-offs end, once the time base has passed a multiple of 1 ms (R347). -/
def rollAlerts (s : State) : State :=
  if s.now / 1000000 = s.alertWin then s else { s with alerts := [], backoff := [], alertWin := s.now / 1000000 }

/-- ALERT_WINDOW_RESET (R347). -/
def execAlertWindowReset (s : State) : Out := .next (rollAlerts s)

/-- An uncorrectable error in a line of device memory, or of a scratchpad, poisons it (R165, Table 7.5). -/
def softError (s : State) (line : Nat) : State :=
  let here : Bool := decide (128 * line < deviceEnd) ||
    (decide (scratchBase ≤ 128 * line) && decide (128 * line < scratchBase + 0x60000000))
  if here && !s.poison.contains line then { s with poison := line :: s.poison } else s

/-- An uncorrectable error in bytes of a line that a core's L1 holds in state F: the copy holds it, and the focus that takes
the copy poisons the line (R233). -/
def copyError (s : State) (core line : Nat) (bytes : BitVec 128) : State :=
  match tabGet s.partials (partialKey core line) with
  | some p =>
    if (dirAt s line).holders.contains core then
      { s with partials := tabPut s.partials (partialKey core line) { p with bad := p.bad ||| bytes } }
    else s
  | none => s

/-- PATROL_SCRUB (R165): a corrected word changes nothing, an uncorrectable line is poisoned. -/
def execPatrolScrub (line : Nat) (bad : Bool) (s : State) : Out :=
  .next (if bad && decide (128 * line < deviceEnd) && !s.poison.contains line then { s with poison := line :: s.poison }
    else s)

/-- The value of `ctrd.act` (R349). -/
def rowCounts (s : State) (bank row : Nat) : Word :=
  let k := rowKey bank row
  BitVec.ofNat 64 (tabD s.acts k 0 % 2 ^ 16 + tabD s.dists k 0 % 2 ^ 16 * 2 ^ 16 + tabD s.alerts bank 0 % 2 ^ 8 * 2 ^ 32 +
    (if s.backoff.contains bank then 2 ^ 40 else 0))

end Sys2Proof.Machine
end

