-- ==== Sys2Proof/Machine/Counters.lean ====
section
/-!
DEFINITION. Synchronisation counters, waits, outstanding operations, the time base and row counts as instructions
(R335 to R344, R349), and the events that release waiters.
-/

namespace Sys2Proof.Machine

/-- The counter's address checked (R337 steps 1 and 2). -/
def counterAccess (s1 : State) (va : Word) (n : Need) : Res (State × Hit) := do
  need (va.toNat % 8 = 0) (misaligned va 0)
  let (s2, h) ← access s1 va 0 n
  match h.tgt with
  | .scratch _ => .error (.walkFault (accessDenied va.toNat 0) (walked va.toNat 0 n))
  | _ => pure (s2, h)

/-- `cadd` (R338): the add goes on its way and the sequencer goes on. -/
def execCadd (scope : BitVec 3) (p : BitVec 5) (a b : Spec) (s : State) : Out :=
  finish s (do
    let (s1, v) ← gate s [opA .ssrc a, opB .ssrc b]
    let va := valAt v 0
    let inc := valAt v 1
    let (s2, h) ← counterAccess s1 va needRW
    afterWalk (walked va.toNat 0 needRW) (need (0 ≤ inc.toInt) (faultWith 0x0A va inc 0))
    let w := { curWt s .s h with kind := .cadd inc p scope s.ids }
    pure (retire (bumpIds (dropAhead { s2 with wts := tabPut s2.wts s.ids w } w.pa 8))))

/-! ### Waiting on a counter (R339) -/

/-- What a waiter finds at its counter; `wait` makes the state it goes on waiting in, and `fault` has what the evaluation
left. -/
inductive CounterEval where
  | value (s : State) (v : Word)
  | wait (g : State → State)
  | fault (f : FaultReq) (g : State → State)

/-- The counter's value where it can be had now; `core` resolves the address, `slot` is charged with a focus. The evaluation
reads the line at its home; of a word of the host it is a counter operation at which the other waiters are evaluated
too. -/
def counterNow (s : State) (who : Asker) (part core : Nat) (slot : Option Nat) (pa : Nat) (va : Word) : CounterEval :=
  let came (a : Option Answer) (o line : Nat) : CounterEval :=
    match a with
    | some a =>
      if a.denied then .fault (accessDenied va.toNat 0) id
      else if a.ps then .fault (uncorrectable va.toNat line 0) id
      else
        let v : Word := BitVec.ofNat 64 (leNat (listSlice a.bytes o 8))
        .value (wakeHost s who pa v) v
    | none => .wait id
  let atHome (pa : Nat) : CounterEval :=
    match homeHolds s who part core (lineOf pa) false with
    | some g => .wait g
    | none =>
      let read (t : State) : State := noteRead (homeLine t (lineOf pa) slot) (lineOf pa) core
      let s1 := read s
      if poisoned s1 pa then .fault (uncorrectable va.toNat (lineOf pa) 0) read else .value s1 (memWord s1.mem pa)
  match window s core pa with
  | .device pa => atHome pa
  | .own pa => atHome pa
  | .host p => came (answerOf s who (128 * lineOf p)) (p % 128) (lineOf p)
  | .fabric _ _ => came (answerOf s who pa) 0 (lineOf pa)
  | _ => .fault (accessDenied va.toNat 0) id

/-- The first request of a waiter: RdCur to the host, CtrWait with the target to another package (R339, R376). It waits
while a link on its way is down (R378). -/
def askCounter (s : State) (who : Asker) (part core pa : Nat) (target : Word) : State :=
  let once (code addr extra link : Nat) (b : List Byte) : State :=
    if cutOff s core (window s core pa) || hasAsk s (fun a => a.who = who && a.addr = addr && a.extra = extra) then s
    else sendAsk s who code addr extra link part b
  match window s core pa with
  | .host p => once 0x03 (128 * lineOf p) 0 0 []
  | .fabric node _ => once 0x05 pa target.toNat (routeOf s node) (leBytes 8 target.toNat)
  | _ => s

/-- A waiter of the sequencer at work at another package is waited for no more. -/
def dropWaits (s : State) : State :=
  { s with asks := s.asks.filter (fun e => !(e.2.who = curAsker s && e.2.link ≠ 0 && e.2.code = 0x05)) }

/-- A satisfied wait is an acquire (R339). -/
def waitDone (s : State) : State := retire (acquired (dropAnswers (dropWaits s)))

/-- What the evaluation of a waiter leaves while it goes on waiting, or faults. -/
def atCounter (s : State) (pa : Nat) (va : Word) : State :=
  match counterNow s (curAsker s) (curPart s) (curCore s) (some s.cur.slot) pa va with
  | .value t _ => t
  | .wait g => g s
  | .fault _ g => g s

/-- `cwait` and `cwaitx`. `go` has the gated state `s1`, and `s0` as the state before the instruction with what its walk left
(R244); waits go on there, behind the sequencer's own earlier operations on the word (R338). -/
def counterWait (s : State) (a b : Spec) (cc : Option Spec) : Out :=
  let ops := [opA .ssrc a, opB .ssrc b] ++ (cc.map (opC .ssrc)).toList
  let go (s0 s1 : State) (pa : Nat) (va target : Word) (ceil : Option Word) : Res State :=
    let w : WaitKind := .counter pa va target ceil
    if seqWtOver s (curKey s) s.cur.side pa 8 then waitIn s0 w
    else
      match counterNow s1 (curAsker s) (curPart s) (curCore s) (some s.cur.slot) pa va with
      | .fault f g => .error (.walkFault f g)
      | .wait _ => waitIn (askCounter (atCounter s0 pa va) (curAsker s) (curPart s) (curCore s) pa target) w
      | .value t v =>
        if v.toNat < target.toNat then waitIn (dropAnswers (atCounter s0 pa va)) w
        else if overCeiling v ceil then .error (.walkFault (overrun va v) (fun t => atCounter t pa va))
        else pure (waitDone t)
  finish s (do
    let (s1, v) ← gate s ops
    match (curSeq s).status with
    | .waiting (.satisfied none) => pure (waitDone s1)
    | .waiting (.satisfied (some o)) => .error (.fault (overrun o.1 o.2))
    | .waiting (.counter pa va target ceil) => go s s1 pa va target ceil
    | _ => do
      let va := valAt v 0
      let (s2, h) ← counterAccess s1 va needR
      let ceil := cc.map (fun _ => valAt v 2)
      afterWalk (walked va.toNat 0 needR) (do
        need (!overCeiling (valAt v 1) ceil) (illegalOperand s 6)
        go (walked va.toNat 0 needR s) s2 (targetPa h.tgt) va (valAt v 1) ceil))

def execCwait (_scope : BitVec 3) (a b : Spec) (s : State) : Out := counterWait s a b none
def execCwaitx (_scope : BitVec 3) (a b cc : Spec) (s : State) : Out := counterWait s a b (some cc)

/-- The key of a context by cluster and number (R358). -/
def ctxKey (cluster cid : Nat) : Nat := 1024 * cluster + cid

/-- CWAIT_SATISFIED (R339, R357): the home finds the target met and releases the waiter, in its slot or swapped out. A
ceiling exceeded during a halt is checked at the release. -/
def execCwaitSatisfied (cluster cid : Nat) (sd : Side) (s : State) : Out :=
  let key := ctxKey cluster cid
  .next (match tabGet s.ctxs key with
    | none => s
    | some c =>
      match (seqOf c sd).status with
      | .waiting (.counter pa va _ _) =>
        if seqWtOver s key sd pa 8 then s
        else
          let s := leaveQueues s (fun w => w = .seq key sd)
          let slot : Option Nat := match c.place with | .inSlot n => some n | _ => none
          match counterNow s (.seq key sd) c.part c.core slot pa va with
          | .wait g => g s
          | .fault f g => raiseCtxFault (g s) key sd f
          | .value t v =>
            evalWaiter { t with answers := t.answers.filter (fun e => e.2.ask.who ≠ .seq key sd) } key sd v
      | _ => s)

/-- HOST_COUNTER_POLL (R339): RdCur for a waiter on a host-window counter. -/
def execHostCounterPoll (cluster cid : Nat) (sd : Side) (s : State) : Out :=
  let key := ctxKey cluster cid
  .next (match tabGet s.ctxs key with
    | none => s
    | some c =>
      match (seqOf c sd).status with
      | .waiting (.counter pa _ target _) =>
        match window s c.core pa with
        | .host _ => askCounter s (.seq key sd) c.part c.core pa target
        | _ => s
      | _ => s)

/-! ### Outstanding operations (R341, R342) -/

/-- The sum of the sequencer's counts in a set. -/
def outstandingSum (s : State) (set : BitVec 5) : Nat :=
  ([AClass.s, .v, .e, .t].map (fun c =>
    if set.getLsbD (classBit c) then outstanding s (curKey s) s.cur.side c else 0)).sum

def noFetchClass (s : State) (set : BitVec 5) : Res Unit := need (!set.getLsbD 4) (illegalOperand s 5)

def execWait (set : BitVec 5) (b : Spec) (s : State) : Out :=
  finish s (do
    let (s1, v) ← gateWith s [opB .ssrc b] (noFetchClass s set)
    if set ≠ 0 && decide ((valAt v 0).toNat < outstandingSum s set) then waitIn s (.outstanding set (valAt v 0))
    else pure (retire s1))

def execCtrdOs (d : Spec) (set : BitVec 5) (s : State) : Out :=
  finish s (do
    let (s1, _) ← gateWith s [opD .sdst d] (noFetchClass s set)
    pure (retire (writeDst s1 d (BitVec.ofNat 64 (outstandingSum s set)))))

/-! ### The time base (R343, R344) -/

def execTnow (d : Spec) (s : State) : Out :=
  finish s (do
    let (s1, _) ← gate s [opD .sdst d]
    pure (retire (writeDst s1 d (BitVec.ofNat 64 s.now))))

def execTat (a : Spec) (s : State) : Out :=
  finish s (do
    let (s1, v) ← gate s [opA .ssrc a]
    if s.now < (valAt v 0).toNat then
      .error (.stall (modSeq s (fun q => { q with status := .until (valAt v 0), why := .none })))
    else pure (retire s1))

/-- TIME_BASE_REACHED (R344): the sequencer of a slot resumes; its `tat` then completes. -/
def execTimeBaseReached (slot : Nat) (sd : Side) (s : State) : Out :=
  .next (match (slotAt s slot).ctx with
    | none => s
    | some key =>
      match (seqOf (ctxAt s key) sd).status with
      | .until t =>
        if s.now < t.toNat then s
        else modCtx s key (fun c => setSeq c sd { seqOf c sd with status := .running })
      | _ => s)

/-! ### Row counts (R349) -/

def execCtrdAct (d a b : Spec) (s : State) : Out :=
  finish s (do
    let (s1, v) ← gate s [opD .sdst d, opA .ssrc a, opB .ssrc b]
    let h ← needHandle s (valAt v 1)
    let loc := (valAt v 2).toNat
    need (bitsOf loc 11 5 = 0 && bitsOf loc 32 32 = 0) (illegalOperand s 6)
    let row := bitsOf loc 16 16
    need (row < h.nrow) (boundsFault row h.nrow)
    pure (retire (writeDst s1 d (rowCounts s (bankId h.stk (bitsOf loc 0 11)) (h.lo + row)))))

end Sys2Proof.Machine
end

