-- ==== Sys2Proof/Machine/Tiles.lean ====
section
/-!
DEFINITION. The tile table (R307 to R316), translation-cache invalidation (R305) and the handle table (R317 to R320).
-/

namespace Sys2Proof.Machine

/-! ### The tile table -/

/-- The tile that a descriptor defines (Table 14.8). -/
def tileOfDesc (h : Nat) (mx : Bool) : Tile :=
  { st := .empty, defined := true, ab := false, ty := tyOfCode (BitVec.ofNat 4 (bitsOf h 88 4)), pf := false, mx := mx,
    sn := 0, nr := 0, base := bitsOf h 0 20, rows := bitsOf h 32 16, rlen := bitsOf h 64 24 }

/-- The checks of a descriptor (R312). -/
def tileDescOk (h : Nat) (mx : Bool) : Bool :=
  let t := tileOfDesc h mx
  bitsOf h 20 12 = 0 && bitsOf h 48 16 = 0 && bitsOf h 92 36 = 0 && t.ty ≠ .none && t.ty ≠ .reserved &&
    t.rows ≠ 0 && t.rlen ≠ 0 && !(t.ty = .f4e2m1 && t.rlen % 2 = 1) && (!mx || (mxType t.ty && t.rlen % 32 = 0)) &&
    tileInside t

def execTdef (mx : Bool) (d a : Spec) (s : State) : Out :=
  finish s (do
    let (s1, v) ← gate s [opD .tile d, opA .ssrc a]
    let va := valAt v 1
    need (va.toNat % 16 = 0) (misaligned va 0)
    mayAccess s .s
    afterLoad 2 va 16 s1 (fun (s2, b) => do
      let old := tileOf (curCtx s) (tileNo d)
      need (!(old.defined && old.st ≠ .empty)) (illegalOperand s 1)
      need (tileDescOk (leNat b) mx) (illegalOperand s 6)
      pure (retire (modTile (dropAnswers s2) (curKey s) (tileNo d) (fun _ => tileOfDesc (leNat b) mx)))))

/-- The sources of a command that it has not read yet, by address. -/
def cmdSources (c : Cmd) : List Rng :=
  if c.stage ≠ 0 then []
  else
    match c.kind with
    | .cpy _ a n _ st => [⟨a, 0, spanOf st n.toNat, needR⟩]
    | .kvapp st _ dc a _ pr _ _ => [⟨.va a, 0, 128 * 2 ^ dc.toNat * elemBytes st, needR⟩, ⟨.va pr, 0, 8, needR⟩]
    | .coll fn op dt t d a count g q n rank root rtab =>
      [⟨.va a, 0, spanOf t (collSourceCount ⟨fn, op, dt, t, d, a, count, g, q, n, rank, root, rtab⟩), needR⟩]
    | _ => []

/-- A command may still read bytes of a scratchpad: some source that it has not read lies there, or may. The rows of a `cpyg` are
known only with its index list, and those of a source that waits for its walk only after that. -/
def cmdMayRead (s : State) (c : Cmd) (pa n : Nat) : Bool :=
  (match c.kind with
    | .cpyg _ (.va _) .. => decide (c.stage = 0)
    | _ => false) ||
  (cmdSources c).any (fun r =>
    match (rangeOf s c.issuer r).2 with
    | .ok l => overlaps l [⟨0, .scratch pa, 0, n⟩]
    | .error (.wait _) => true
    | .error (.fault _) => false)

/-- Engine commands of the hart issued before now may still read the region of a tile. -/
def tileStillRead (s : State) (t : Tile) : Bool :=
  let c := curCtx s
  s.cmds.any (fun e => e.2.issuer.ctx = curKey s && e.2.issuer.task = c.task && e.2.issuer.iter = c.iter &&
    cmdMayRead s e.2 (tilePa (curCore s) t) (tileSize t))

/-- `tfree` (R313). What was issued before it has finished reading the tile: a `drain` holds it in draining, engine commands that
read its region by address are waited for, and the other readers read at their issue (log entry 33). -/
def execTfree (u : Bool) (d : Spec) (s : State) : Out :=
  finish s (do
    let (s1, _) ← gate s [opD .tile d]
    let t ← needTile (curCtx s) d
    need ((t.st = .empty || t.st = .ready) && !tileStillRead s t) (stallIn s .tile)
    pure (retire (modTile s1 (curKey s) (tileNo d) (fun t =>
      if u then Tile.undefined else { t with st := .empty, ab := false, nr := 0 }))))

/-- `twait` is an acquire of the tile's producer: no read made ahead stands past it (R314, R220). Elements that a load
stream has read ahead stay (log entry 89). -/
def tileAcquired (s : State) : State := modSeq s (fun q => { q with ahead := [], acq := s.ids })

def execTwaitR (d a : Spec) (s : State) : Out :=
  finish s (do
    let (s1, _) ← gate s [opD .sdst d, opA .tile a]
    let t ← needTile (curCtx s) a
    if t.st = .ready then pure (retire (writeDst (tileAcquired s1) d (BitVec.ofNat 64 t.nr)))
    else if t.st = .empty && t.ab then pure (retire (writeDst (tileAcquired s1) d (BitVec.allOnes 64)))
    else stallIn s .tile)

def execTwaitE (d a : Spec) (s : State) : Out :=
  finish s (do
    let (s1, _) ← gate s [opD .sdst d, opA .tile a]
    let t ← needTile (curCtx s) a
    need (t.st = .empty) (stallIn s .tile)
    pure (retire (writeDst (tileAcquired s1) d (boolWord t.ab))))

def execTstat (d a : Spec) (s : State) : Out :=
  finish s (do
    let (s1, _) ← gate s [opD .sdst d, opA .tile a]
    let t := tileOf (curCtx s) (tileNo a)
    pure (retire (writeDst s1 d (BitVec.ofNat 64 (if t.defined then tileBits t else 0)))))

/-- `tsetl` (R316): sw.rl, sw.tl and d from a tile. -/
def setLengths (s : State) (d : Spec) (rlen nr : Nat) : State :=
  writeDst (modSeq s (fun q => { q with rl := BitVec.ofNat 64 rlen, tl := BitVec.ofNat 64 nr })) d (BitVec.ofNat 64 nr)

def execTsetl (d a : Spec) (s : State) : Out :=
  finish s (do
    let (s1, _) ← gate s [opD .sdst d, opA .tile a]
    let t ← needTile (curCtx s) a
    pure (retire (setLengths s1 d t.rlen t.nr)))

def execTsetlC (d a b : Spec) (s : State) : Out :=
  finish s (do
    let (s1, v) ← gate s [opD .sdst d, opA .tile a, opB .ssrc b]
    let t ← needTile (curCtx s) a
    need (t.st ≠ .ready) (illegalOperand s 2)
    need (t.st = .empty) (stallIn s .tile)
    need (!pending s (curKey s) s.cur.side (curCore s) 3 3 s.ids) (stallIn s .none)
    let nr := min (valAt v 2).toNat t.rows
    pure (retire (setLengths (tileReady s1 (curKey s) (tileNo a) nr) d t.rlen nr)))

/-! ### tlbi (R305) -/

/-- Two cores share a scope of cluster, die or package (R6). -/
def coresShare (scope : BitVec 3) (a b : Nat) : Bool :=
  if scope = 3 then clusterOfCore a = clusterOfCore b
  else if scope = 4 then dieOfCluster (clusterOfCore a) = dieOfCluster (clusterOfCore b)
  else true

/-- A core beside a translation cache: the core itself, or one of the cluster of an engine's or a cluster's cache. -/
def coreOfTlb (k : Nat) : Nat := if k < 2048 then k else if k < 4096 then 96 * ((k - 2048) / 4) else 96 * (k - 4096)

/-- The partition's translations that cover an address, or all, leave the caches within a scope but those of `keep`. -/
def dropTranslations (s : State) (part core : Nat) (scope : BitVec 3) (va : Option Nat) (keep : List Nat) : State :=
  let hit (t : Tlb) : Bool := t.part = part && (match va with
    | none => true
    | some a => a / 2 ^ t.size = t.va / 2 ^ t.size)
  { s with tlb := s.tlb.map (fun e =>
      if coresShare scope core (coreOfTlb e.1) && !keep.contains e.1 then (e.1, e.2.filter (fun t => !hit t)) else e) }

/-- An access on its way of a sequencer, but the one at work, of a partition within a scope; a counter's waiter keeps its
translation and is none. -/
def accessOut (s : State) (part core : Nat) (scope : BitVec 3) (who : Asker) : Bool :=
  let mine (key : Nat) : Bool := (ctxAt s key).part = part && coresShare scope core (ctxAt s key).core
  match who with
  | .seq key sd => mine key && !seqWaits (seqOf (ctxAt s key) sd) && !(key = curKey s && sd = s.cur.side)
  | .stream key _ => mine key
  | .fetch key sd => mine key && !(key = curKey s && sd = s.cur.side)
  | .cmd id =>
    let ours (i : Issuer) : Bool := i.part = part && coresShare scope core i.core
    ((tabGet s.cmds id).map (fun c => ours c.issuer)).getD false || ((tabGet s.bankCmds id).map (fun c => ours c.issuer)).getD false
  | _ => false

/-- Who has an access on its way, its request sent or its answer come. -/
def onWayBy (s : State) (part core : Nat) (scope : BitVec 3) : List Asker :=
  ((s.asks.map (fun e => e.2.who)) ++
    (s.answers.map (fun e => e.2.ask.who)).filter (fun w => match w with | .seq .. => true | .cmd _ => true | _ => false)).filter
    (accessOut s part core scope)

/-- The translation caches that an asker's accesses go through. -/
def cachesOf (s : State) : Asker → List Nat
  | .seq key _ | .stream key _ | .fetch key _ => [(ctxAt s key).core, clusterTlb (clusterOfCore (ctxAt s key).core)]
  | .cmd id =>
    let of (i : Issuer) : List Nat := [i.unit, clusterTlb (clusterOfCore i.core)]
    ((tabGet s.cmds id).map (fun c => of c.issuer)).getD (((tabGet s.bankCmds id).map (fun c => of c.issuer)).getD [])
  | _ => []

/-- Accesses and commands of the partition within the scope that may have used a removed translation and have not performed:
writes on their way, elements of store streams, which carry the translation of their push, requests to the host and to other
packages, engine commands between two of their stages, and a `tbld` at work. -/
def scopeBusy (s : State) (part core : Nat) (scope : BitVec 3) : Bool :=
  s.wts.any (fun e => e.2.part = part && coresShare scope core e.2.core) ||
    s.ctxs.any (fun e => e.2.part = part && coresShare scope core e.2.core &&
      (streamStores e.2 .a s.ids || streamStores e.2 .x s.ids)) ||
    !(onWayBy s part core scope).isEmpty ||
    s.cmds.any (fun e => e.2.issuer.part = part && coresShare scope core e.2.issuer.core && e.2.stage ≠ 0) ||
    s.bankCmds.any (fun e => e.2.issuer.part = part && coresShare scope core e.2.issuer.core && e.2.started && !e.2.faulted &&
      (match e.2.kind with | .tbld .. => true | _ => false))

/-- A failed edge lies between a core and a die of the package with clusters of its partition: what has to reach their translation
caches waits (R8, R378). -/
def scopeCut (s : State) (part core : Nat) (scope : BitVec 3) : Bool :=
  decide (scope = 5) && (List.range 16).any (fun c =>
    (partAt s part).clus.getLsbD c && diesCut s (dieOfCluster (clusterOfCore core)) (dieOfCluster c))

/-- The loads of the partition within the scope have performed: none may perform again through a translation removed (R220). -/
def settleLoads (s : State) (part core : Nat) (scope : BitVec 3) : State :=
  { s with ctxs := s.ctxs.map (fun e =>
      if e.2.part = part && coresShare scope core e.2.core then
        (e.1, { e.2 with a := { e.2.a with late := [] }, x := { e.2.x with late := [] } })
      else e) }

/-- `tlbi` (R305, R306). Until every access on its way has performed, the translation caches that such an access goes through keep
what they hold, so that it acts on one frame only. -/
def tlbi (s : State) (ops : List Opnd) (scope : BitVec 3) : Out :=
  finish s (do
    let (s1, v) ← gateWith s ops (need (scope = 3 || scope = 4 || scope = 5) (illegalOperand s 5))
    need (!pending s (curKey s) s.cur.side (curCore s) 1 scope s.ids && !scopeCut s (curPart s) (curCore s) scope)
      (stallIn s .none)
    let va := v.head?.map BitVec.toNat
    if scopeBusy s (curPart s) (curCore s) scope then
      stallIn (dropTranslations s (curPart s) (curCore s) scope va
        ((onWayBy s (curPart s) (curCore s) scope).flatMap (cachesOf s))) .none
    else
      pure (retire (settleLoads (dropTranslations s1 (curPart s) (curCore s) scope va []) (curPart s) (curCore s) scope)))

def execTlbiVa (a : Spec) (scope : BitVec 3) (s : State) : Out := tlbi s [opA .ssrc a] scope
def execTlbiAll (scope : BitVec 3) (s : State) : Out := tlbi s [] scope

/-! ### Handles (R317 to R320) -/

def nextGen (g : BitVec 32) : BitVec 32 := if g = 0xFFFFFFFF then 1 else g + 1

/-- The 64-bit value of a handle (R317). -/
def handleValue (slot : Nat) (gen : BitVec 32) : Word := BitVec.ofNat 64 (slot + gen.toNat * 2 ^ 16)

/-- Rows of the partition's bank region in a stack: none where it has no region. -/
def bankRegion (p : Part) (stack : Nat) : Nat × Nat := p.breg.getD stack (0, 0)

/-- `hset` (R319). No virtual address is denied where the rows lie outside the region: the stop record's addr is 0 (log entry
108). -/
def execHset (d a b : Spec) (s : State) : Out :=
  finish s (do
    let (s1, v) ← gate s [opD .sdst d, opA .ssrc a, opB .ssrc b]
    let va := valAt v 1
    need (va.toNat % 16 = 0) (misaligned va 0)
    mayAccess s .s
    afterLoad 2 va 16 s1 (fun (s2, bytes) => do
      let h := leNat bytes
      let n := (valAt v 2).toNat
      let e := handleAt s (curPart s) n
      let first := bitsOf h 16 16
      let nrow := bitsOf h 32 16
      need (n < 256 && !e.valid && bitsOf h 5 11 = 0 && bitsOf h 48 80 = 0 && nrow ≠ 0) (illegalOperand s 6)
      let r := bankRegion (partAt s (curPart s)) (bitsOf h 0 3)
      need (r.2 ≠ 0 && decide (first + nrow ≤ r.2 - r.1)) (faultWith 0x06 0 0 0)
      let g := nextGen e.gen
      let new : Handle := { valid := true, hr := bitsOf h 3 1 = 1, hw := bitsOf h 4 1 = 1, stk := bitsOf h 0 3, gen := g,
                            lo := r.1 + first, nrow := nrow, pin := e.pin }
      pure (retire (writeDst (setHandle (dropAnswers s2) (curPart s) n new) d (handleValue n g)))))

/-- `hinv` (R320): once issued, which ends a loop boundary it stood at (R107), it only waits for PIN = 0, and a halt stops it
in its wait. -/
def execHinv (a : Spec) (s : State) : Out :=
  finish s (do
    match (curSeq s).status with
    | .pinWait n => if (handleAt s (curPart s) n).pin = 0 && !(partAt s (curPart s)).line then pure (retire s) else stallIn s .none
    | _ => do
      let (s1, v) ← gate s [opA .ssrc a]
      let e ← needHandle s (valAt v 0)
      let n := handleSlot (valAt v 0)
      let s2 := setHandle s1 (curPart s) n { e with valid := false, gen := nextGen e.gen }
      if e.pin = 0 then pure (retire s2)
      else pure (modSeq s2 (fun q => { q with status := .pinWait n, atBound := false, why := .none })))

/-- The state as seen by the sequencer of a slot. -/
def atSlot (s : State) (slot : Nat) (sd : Side) : State := { s with cur := { s.cur with slot := slot, side := sd, op := s.ids } }

/-- HINV_PIN_RELEASE (R320): the last pin is gone and the waiting sequencer moves past its `hinv`. -/
def execHinvPinRelease (slot : Nat) (sd : Side) (s : State) : Out :=
  .next (match (slotAt s slot).ctx with
    | none => s
    | some key =>
      let c := ctxAt s key
      match (seqOf c sd).status with
      | .pinWait n =>
        if (handleAt s c.part n).pin = 0 && !(partAt s c.part).line then retire (atSlot s slot sd) else s
      | _ => s)

end Sys2Proof.Machine
end

