-- ==== Sys2Proof/Machine/Lookup.lean ====
section
/-!
DEFINITION. Bank commands: `cbld`, `tbld`, `lkac`, `bpld`, `bkst`, their descriptor, their order in the die's queue, waves,
the lens adder and retirement (R279 to R291, R297 to R299).
-/

namespace Sys2Proof.Machine

/-! ### Issue (R281, R284, R285) -/

/-- A bank command descriptor's fields (Table 13.3). -/
def descOf (h : Nat) : BankDesc :=
  { aentry := BitVec.ofNat 10 (bitsOf h 0 10), xentry := BitVec.ofNat 10 (bitsOf h 16 10),
    klo := BitVec.ofNat 10 (bitsOf h 32 10), khi := BitVec.ofNat 10 (bitsOf h 48 10), bank0 := bitsOf h 64 11,
    nbank := bitsOf h 80 12, ncol := bitsOf h 96 17, slot := BitVec.ofNat 6 (bitsOf h 128 6), b := bitsOf h 136 3,
    g := bitsOf h 140 4, gb := bitsOf h 144 5, tb := bitsOf h 150 10, ot := bitsOf h 160 1 = 1,
    sact := BitVec.ofNat 32 (bitsOf h 192 32), p := Vector.ofFn (fun i => BitVec.ofNat 32 (bitsOf h (256 + 32 * i) 32)) }

def descReserved (h : Nat) : Bool :=
  bitsOf h 10 6 ≠ 0 || bitsOf h 26 6 ≠ 0 || bitsOf h 42 6 ≠ 0 || bitsOf h 58 6 ≠ 0 || bitsOf h 75 5 ≠ 0 ||
    bitsOf h 92 4 ≠ 0 || bitsOf h 113 15 ≠ 0 || bitsOf h 134 2 ≠ 0 || bitsOf h 139 1 ≠ 0 || bitsOf h 149 1 ≠ 0 ||
    bitsOf h 161 31 ≠ 0 || bitsOf h 224 32 ≠ 0

def descBanksOk (d : BankDesc) : Bool := d.nbank ≠ 0 && decide (d.bank0 + d.nbank ≤ 2048)
def descKernelOk (d : BankDesc) : Bool :=
  d.klo ≤ d.aentry && d.aentry ≤ d.khi && d.klo ≤ d.xentry && d.xentry ≤ d.khi
def descTableOk (d : BankDesc) : Bool :=
  decide (1 ≤ d.b) && decide (d.b ≤ 4) && decide (1 ≤ d.g) && decide (d.g ≤ 8) && decide (d.b * d.g ≤ 8) &&
    (d.gb = 1 || d.gb = 2 || d.gb = 4 || d.gb = 8 || d.gb = 16) && decide (d.tb + d.gb * 2 ^ (d.b * d.g) ≤ 1024)

/-- The dies whose queues a command stands in. -/
def cmdDies (c : BankCmd) : List Nat :=
  match c.kind with
  | .cbld _ _ dies => dies
  | _ => [c.die]

/-- Every die's queue has room: 128 commands each (Table 12.1). -/
def bankRoom (s : State) (dies : List Nat) : Bool :=
  dies.all (fun d => decide (s.bankCmds.countP (fun e => (cmdDies e.2).contains d) < 128))

def newBankCmd (i : Issuer) (k : BankKind) (die : Nat) (h : Handle) (handle : Word) : BankCmd :=
  { issuer := i, kind := k, die := die, stack := h.stk, lo := h.lo, nrow := h.nrow, handle := handle, started := false,
    faulted := false, aborted := false, startNo := 0, book := none, scale := 0, sums := [], sats := 0, drained := 0,
    lastBank := none }

/-- A bank command may issue: no fence holds it back, no failed edge lies on its way (R8), and the queues of its dies have
room; else it stalls before issue (R285, R196). -/
def bankReady (s : State) (dies : List Nat) : Res Unit := do
  mayAccess s .e
  need (!dies.any (diesCut s (dieOfSlot s.cur.slot))) (stallIn s .none)
  need (bankRoom s dies) (stallIn s .queue)

/-- A checked bank command enters its queue. The commands of several sequencers stand in a die's queue in the order of their
issue, their numbers, which is the model's choice of the order in which they arrive (log entry 105). -/
def issueBank (s : State) (c : BankCmd) : State :=
  bumpIds (curPm (movePin { s with bankCmds := tabPut s.bankCmds s.ids c } (curPart s) c.issuer.pin (· + 1)) 10 1)

/-- What a command that names a handle waits for before its further checks: at service level 1 it enters no queue (R285). -/
def handleReady (s : State) (h : Handle) : Res Unit :=
  if s.svc = 1 then .ok ()
  else do
    need (!s.edgeDown.contains (16 + h.stk)) (stallIn s .none)
    bankReady s [h.stk / 2]

/-- `n` bytes that a command reads at issue as S-class loads (R284), at a multiple of `al`, and what follows: a fault there leaves
what the loads left. -/
def issueLoad {β : Type} (s s1 : State) (va : Word) (al k n : Nat) (f : State × List Byte → Res β) : Res β := do
  need (va.toNat % al = 0) (misaligned va 0)
  mayAccess s .s
  afterLoad k va n s1 (fun x => f (dropAnswers x.1, x.2))

/-- A descriptor read at issue (R284). -/
def readDesc {β : Type} (s s1 : State) (va : Word) (f : State × Nat → Res β) : Res β :=
  issueLoad s s1 va 64 2 64 (fun x => f (x.1, leNat x.2))

def execCbld (all : Bool) (scope : BitVec 3) (a cc : Spec) (s : State) : Out :=
  finish s (do
    let (s1, v) ← gate s [opA .ssrc a, opC .ssrc cc]
    let va := valAt v 0
    let c := (valAt v 1).toNat
    let dies := if all then [0, 1, 2, 3] else [bitsOf c 8 2]
    bankReady s dies
    issueLoad s s1 va 32 2 32 (fun (s2, b) => do
      let h := leNat b
      let w := bitsOf h 160 3
      need (decide (1 ≤ w) && decide (w ≤ 4) && bitsOf h 163 93 = 0 && bitsOf c 6 2 = 0 && bitsOf c 10 54 = 0 &&
        !(all && bitsOf c 8 2 ≠ 0)) (illegalOperand s 6)
      let book : Codebook := ⟨BitVec.ofNat 128 (bitsOf h 0 128), BitVec.ofNat 32 (bitsOf h 128 32), BitVec.ofNat 3 w⟩
      let k := newBankCmd (curIssuer s true scope none) (.cbld (bitsOf c 0 6) book dies) (bitsOf c 8 2) Handle.reset 0
      pure (retire (issueBank s2 k))))

/-- After its checks a command answers 1 at service level 1, or enters the queue and answers 0 (R285). -/
def answerBank (s s1 : State) (d : Spec) (scope : BitVec 3) (h : Handle) (handle : Word) (k : BankKind)
    (prep : State → Res State) : Res State :=
  if s.svc = 1 then .ok (retire (writeDst s1 d 1))
  else do
    let s2 ← prep s1
    let c := newBankCmd (curIssuer s true scope (some (handleSlot handle))) k (h.stk / 2) h handle
    pure (retire (writeDst (issueBank s2 c) d 0))

def execTbld (scope : BitVec 3) (d a b cc : Spec) (s : State) : Out :=
  finish s (do
    let (s1, v) ← gate s [opD .sdst d, opA .ssrc a, opB .ssrc b, opC .ssrc cc]
    let h ← needHandle s (valAt v 1)
    handleReady s h
    readDesc s s1 (valAt v 3) (fun (s2, r) => do
      let desc := descOf r
      need (!descReserved r && descBanksOk desc && descTableOk desc) (illegalOperand s 6)
      answerBank s s2 d scope h (valAt v 1) (.tbld desc (valAt v 2)) .ok))

/-- The checks of a result tile (R289), with the positions of Table 17.2. -/
def resultTile (s : State) (t : Tile) (ncol : Nat) (ty : ETy) : Res Unit := do
  need (!t.pf) (illegalOperand s 4)
  need (t.rows * t.rlen = ncol) (illegalOperand s 6)
  need (t.ty = ty) (tagMismatch s 4)

/-- A result tile starts to fill at issue. -/
def takeResult (s : State) (n : Nat) (t : Tile) (s1 : State) : Res State :=
  if t.st = .empty then .ok (fillTile s1 (curKey s) n) else stallIn s .tile

def execLkac (scope : BitVec 3) (d a b cc : Spec) (s : State) : Out :=
  finish s (do
    let (s1, v) ← gate s [opD .sdst d, opA .ssrc a, opB .ssrc b, opC .tile cc]
    let t ← needTile (curCtx s) cc
    let h ← needHandle s (valAt v 1)
    handleReady s h
    readDesc s s1 (valAt v 2) (fun (s2, r) => do
      let desc := descOf r
      need (!descReserved r && descBanksOk desc && descKernelOk desc && descTableOk desc && desc.ncol ≠ 0 &&
        decide (desc.ncol ≤ 65536)) (illegalOperand s 6)
      resultTile s t desc.ncol (if desc.ot then .i32 else .f32)
      answerBank s s2 d scope h (valAt v 1) (.lkac desc (tileNo cc) t) (takeResult s (tileNo cc) t)))

/-- The operand C of `bkst`: a tile, or the specifier 0x00 for none (Table 13.4, R289). -/
def bkstTile (sp : Spec) : List Opnd := if sp = .x false 0 then [] else [opC .tile sp]

def execBkst (scope : BitVec 3) (d a b cc : Spec) (s : State) : Out :=
  finish s (do
    let (s1, v) ← gate s ([opD .sdst d, opA .ssrc a, opB .ssrc b] ++ bkstTile cc)
    let t ← tileIf (curCtx s) cc
    let h ← needHandle s (valAt v 1)
    handleReady s h
    readDesc s s1 (valAt v 2) (fun (s2, r) => do
      let desc := descOf r
      need (!descReserved r && descBanksOk desc && descKernelOk desc && descTableOk desc && decide (desc.ncol ≤ 65536) &&
        !(t.isNone && desc.ncol ≠ 0)) (illegalOperand s 6)
      (match t with | some t => resultTile s t desc.ncol .i32 | none => pure ())
      answerBank s s2 d scope h (valAt v 1) (.bkst desc (t.map (fun t => (tileNo cc, t))))
        (fun s1 => match t with | some t => takeResult s (tileNo cc) t s1 | none => .ok s1)))

def execBpld (scope : BitVec 3) (d a b cc : Spec) (s : State) : Out :=
  finish s (do
    let (s1, v) ← gate s [opD .sdst d, opA .ssrc a, opB .ssrc b, opC .ssrc cc]
    let h ← needHandle s (valAt v 1)
    handleReady s h
    let c := (valAt v 3).toNat
    let w0 := bitsOf c 0 10
    let n := bitsOf c 16 11
    need (bitsOf c 10 6 = 0 && bitsOf c 27 37 = 0 && decide (512 ≤ w0) && n ≠ 0 && decide (w0 + n ≤ 1024))
      (illegalOperand s 6)
    issueLoad s s1 (valAt v 2) 4 40 (4 * n) (fun (s2, b) =>
      answerBank s s2 d scope h (valAt v 1) (.bpld w0 ((words32 n b).map (BitVec.ofNat 32))) .ok))

/-! ### Faults, aborts and retirement (R286, R295, R299, R356) -/

def setBank (s : State) (id : Nat) (c : BankCmd) : State := { s with bankCmds := tabPut s.bankCmds id c }

/-- The result tile of a command: its number, and its entry as it was at issue. -/
def bankTile (c : BankCmd) : Option (Nat × Tile) :=
  match c.kind with
  | .lkac _ n t => some (n, t)
  | .bkst _ r => r
  | _ => none

/-- The kernel descriptor of a command. -/
def bankDesc (c : BankCmd) : Option BankDesc :=
  match c.kind with
  | .lkac d .. => some d
  | .bkst d _ => some d
  | _ => none

/-- The result tile of a stopped command: its bytes are free values, it is empty with AB = 1 (R299, R356; log entry
19). -/
def abortTile (s : State) (c : BankCmd) : State :=
  match bankTile c with
  | none => s
  | some (n, t) =>
    let s1 := writeMem s (tilePa c.issuer.core t) ((List.range (tileSize t)).map (Config.abortByte s.free))
    let s2 := { s1 with free := s.free + 1 }
    if sameIteration s c.issuer then
      modTile s2 c.issuer.ctx n (fun t => { t with st := .empty, ab := true, nr := 0 })
    else s2

/-- A command leaves its queue and drops its pin. -/
def dropBank (s : State) (id : Nat) (c : BankCmd) : State :=
  movePin { s with bankCmds := tabDel s.bankCmds id, answers := s.answers.filter (fun e => e.2.ask.who ≠ .cmd id) }
    c.issuer.part c.issuer.pin (· - 1)

/-- A command stopped by its own fault: it does not retire and keeps its pin (R295). -/
def bankFaults (s : State) (id : Nat) (c : BankCmd) (f : FaultReq) : State :=
  raiseCmdFault (abortTile (setBank s id { c with faulted := true, sums := [], sats := 0, drained := 0 }) c) id c.issuer f

/-! ### Start (R286, R287, R290, R292, R297) -/

/-- An earlier `cbld` of the slot on the die has not written yet. -/
def cbldBefore (s : State) (id die slot : Nat) : Bool :=
  s.bankCmds.any (fun e => decide (e.1 < id) && match e.2.kind with
    | .cbld n _ dies => n = slot && dies.contains die
    | _ => false)

/-- The codebook slot a command names on its die. -/
def bankSlot (c : BankCmd) : Option Nat :=
  match c.kind with
  | .tbld d _ => some d.slot.toNat
  | .lkac d .. => some d.slot.toNat
  | _ => none

def isCbld (c : BankCmd) : Bool :=
  match c.kind with
  | .cbld .. => true
  | _ => false

/-- The tables a `tbld` builds (R287): entries of one bank from its activations. -/
def buildTables (d : BankDesc) (book : Codebook) (bank : Nat) (acts : List Int) (t : Tab (BitVec 32)) :
    Tab (BitVec 32) :=
  (List.range d.gb).foldl (fun t jl =>
    (List.range (2 ^ (d.b * d.g))).foldl (fun t k =>
      tabPut t (1024 * bank + d.tb + jl * 2 ^ (d.b * d.g) + k)
        (BitVec.ofInt 32 (groupEntry book ((acts.drop (jl * d.g)).take d.g) k))) t) t

def buildBanks (s : State) (c : BankCmd) (d : BankDesc) (book : Codebook) (acts : List Int) : State :=
  { s with tables := (List.range d.nbank).foldl (fun t i =>
      buildTables d book (bankId c.stack (d.bank0 + i)) (acts.drop (i * d.gb * d.g)) t) s.tables }

/-- The BLUs of a command's banks at its start (R292). -/
def startBlu (id : Nat) (d : BankDesc) (b : Blu) : Blu :=
  { b with n := d.p, p := d.p, z := Vector.replicate 64 0, iq := [], sq := [], ib := List.replicate 32 0,
           apc := d.aentry.toNat, xpc := d.xentry.toNat, aEnded := false, xEnded := false, aLoops := [], xLoops := [],
           openRow := none, endWord := 0, sent := 0, cmd := some id }

def startKernels (s : State) (id : Nat) (c : BankCmd) (d : BankDesc) : State :=
  (List.range d.nbank).foldl (fun s i => modBlu s (bankId c.stack (d.bank0 + i)) (startBlu id d)) s

/-- What a `tbld` reads and builds (R287). -/
def workTbld (s : State) (c : BankCmd) (d : BankDesc) (book : Codebook) (act : Word) : WorkM State := do
  let (s1, p) ← ranges s c.issuer [⟨.va act, 0, d.nbank * d.gb * d.g, needR⟩]
  workReady s1 c.issuer p.flatten []
  let (s2, b) ← readPieces c.issuer s1 p.flatten
  pure (buildBanks s2 c d book (b.map BitVec.toInt))

/-- What a command does at its start. A restart after a release works with the codebook slot captured at the first start
(R297, R362). -/
def startBank (s : State) (id : Nat) (c : BankCmd) : State :=
  let book (d : BankDesc) : Codebook := c.book.getD ((dieAt s c.die).cb.getD d.slot.toNat Codebook.reset)
  let c0 : BankCmd := { c with book := (bankSlot c).map (fun k => c.book.getD ((dieAt s c.die).cb.getD k Codebook.reset)) }
  let c1 := { c0 with started := true, startNo := s.ids, sums := [], sats := 0, drained := 0, lastBank := none }
  let begun (t : State) (c : BankCmd) : State := bumpIds (setBank t id c)
  let badBook : State := bankFaults s id c0 ⟨0x02, 0, c.issuer.word, 6, 0, none⟩
  match c.kind with
  | .cbld .. => s
  | .bpld w0 ws =>
    let k := stackAt s c.stack
    begun (setStack s c.stack { k with prog := ws.zipIdx.foldl (fun t e =>
      if e.1 = 0 then tabDel t (w0 + e.2) else tabPut t (w0 + e.2) e.1) k.prog }) c1
  | .tbld d act =>
    if (book d).b.toNat ≠ d.b then badBook
    else
      (match workTbld s c d (book d) act with
        | .ok t => begun (endWalk t (.cmd id)) c1
        | .error (.fault f t) => bankFaults (endWalk t (.cmd id)) id c0 f
        | .error (.wait g) => endWalk (g s) (.cmd id)
        | .error (.walk g) => beginWalk (g s) (.cmd id)
        | .error (.next t) => t
        | .error (.done t _) => t)
  | .lkac d .. =>
    if (book d).b.toNat ≠ d.b then badBook
    else
      let scale := f32Of (fvMul (f32Val (d.sact.zeroExtend 64)) (f32Val ((book d).scale.zeroExtend 64)))
      begun (startKernels s id c d) { c1 with scale := scale.truncate 32 }
  | .bkst d _ => begun (startKernels s id c d) c1

/-- BANK_COMMAND_START (R286): the oldest command of a stack starts, once the one before it has retired. Queued commands
stay queued while the partition's halt line is up. -/
def execBankCommandStart (stack : Nat) (s : State) : Out :=
  .next (match s.bankCmds.find? (fun e => !isCbld e.2 && e.2.stack = stack) with
    | none => s
    | some (id, c) =>
      if c.started || c.faulted || (partAt s c.issuer.part).line then s
      else if ((bankSlot c).map (cbldBefore s id c.die)).getD false then s
      else startBank (leaveQueues s (fun w => w = .cmd id)) id c)

/-- A `cbld` may write its slot on a die (R297). -/
def cbldReady (s : State) (die id : Nat) (c : BankCmd) : Bool :=
  match c.kind with
  | .cbld slot _ dies =>
    dies.contains die && !cbldBefore s id die slot && !(partAt s c.issuer.part).halted &&
      !s.bankCmds.any (fun e => decide (e.1 < id) && e.2.die = die && e.2.book.isNone && bankSlot e.2 = some slot)
  | _ => false

/-- CODEBOOK_WRITE (R297): the oldest `cbld` that may, writes its slot on a die; it retires with its last die. -/
def execCodebookWrite (die : Nat) (s : State) : Out :=
  .next (match s.bankCmds.find? (fun e => cbldReady s die e.1 e.2) with
    | none => s
    | some (id, c) =>
      match c.kind with
      | .cbld slot book dies =>
        let s1 := modDie s die (fun d => { d with cb := d.cb.setIfInBounds slot book })
        let left := dies.filter (· ≠ die)
        if left.isEmpty then dropBank s1 id c else setBank s1 id { c with kind := .cbld slot book left }
      | _ => s)

/-! ### Waves (R291, R164) -/

/-- TL and the thermal idle count of a band (Table 18.9). -/
def bandLimit (band : Nat) : Nat := [4096, 512, 256, 64, 16].getD band 16
def bandIdle (band : Nat) : Nat := [0, 0, 4, 8, 12].getD band 12

def bluEnded (s : State) (bank : Nat) : Bool := let b := bluAt s bank; b.aEnded && b.xEnded

/-- The banks of a running command whose kernels have not ended, ascending, cyclically after the last one served. -/
def waveBanks (s : State) (id : Nat) (c : BankCmd) : List Nat :=
  match bankDesc c with
  | none => []
  | some d =>
    let all := ((List.range d.nbank).map (fun i => bankId c.stack (d.bank0 + i))).filter (fun b =>
      (bluAt s b).cmd = some id && !bluEnded s b)
    match c.lastBank with
    | none => all
    | some l => all.filter (fun b => decide (l < b)) ++ all.filter (fun b => decide (b ≤ l))

/-- Commands of a die that run kernels and may be served, in the order they started. -/
def runningCmds (s : State) (die : Nat) : List (Nat × BankCmd) :=
  let l := s.bankCmds.filter (fun e => e.2.die = die && (bankDesc e.2).isSome && e.2.started && !e.2.faulted &&
    !e.2.aborted && !(partAt s e.2.issuer.part).line)
  l.mergeSort (fun a b => a.2.startNo ≤ b.2.startNo)

/-- A bank joins a wave: the channel closes its row, and the kernel's row of the last wave is opened again. -/
def joinWave (slot : Nat) (s : State) (bank : Nat) : State :=
  match (bluAt s bank).openRow with
  | some r => if (bluAt s bank).aEnded then s else activate s bank r 1 slot
  | none => { s with openRows := tabDel s.openRows bank }

/-- Up to `n` banks chosen from the commands in order, with the commands' last banks noted. -/
def chooseBanks : Nat → State → List (Nat × BankCmd) → State × List Nat
  | _, s, [] => (s, [])
  | n, s, (id, c) :: r =>
    let l := (waveBanks s id c).take n
    let s1 := match l.getLast? with
      | some b => setBank s id { c with lastBank := some b }
      | none => s
    let s2 := l.foldl (joinWave c.issuer.slot) s1
    let x := chooseBanks (n - l.length) s2 r
    (x.1, l ++ x.2)

/-- A sequencer still stands at the word whose access waits, in a slot, and no halt has stopped it. -/
def standsAt (s : State) (key : Nat) (sd : Side) (pc : Word) : Bool :=
  match tabGet s.ctxs key with
  | some c =>
    (seqOf c sd).pc = pc && (seqOf c sd).status ≠ .faulted && !(partAt s c.part).halted &&
      (match c.place with | .inSlot _ => true | _ => false)
  | none => false

/-- A waiting access is still there. -/
def stillWaits (s : State) (w : BankWait) : Bool :=
  match w.who with
  | .seq key sd => standsAt s key sd w.pc
  | .fetch key sd => standsAt s key sd w.pc
  | .stream key q =>
    (match tabGet s.ctxs key with
      | some c => ((c.binds.getD q Binding.unbound).bound || (c.q.getD q []).any QEnt.stale) && !(partAt s c.part).line &&
          (match c.place with | .inSlot _ => true | _ => false)
      | none => false)
  | .wt n => (match tabGet s.wts n with | some x => x.phase = .toHome | none => false)
  | .cmd n =>
    (match tabGet s.cmds n, tabGet s.bankCmds n with
      | some c, _ => !c.faulted && !(partAt s c.issuer.part).line
      | none, some c => !c.faulted && !(partAt s c.issuer.part).line
      | none, none => false)
  | _ => false

/-- A write of the device itself waits for a line of these banks, and for no host and no failed link: of a context block or of
an event record. -/
def deviceWaits (s : State) (banks : List Nat) : Bool :=
  (s.blockq.map (fun e => (e.core, lineOf e.pa)) ++
      s.evq.flatMap (fun e => (eventLines s e.1).map (fun l => (partCore s e.1, l)))).any (fun w =>
    banks.contains (bankOfLine w.2) && !hostOwns s w.2 && !hostShares s w.2 && !lineCut s w.1 w.2)

/-- WAVE_START (R291). No wave starts on a bank that has requests waiting from its last one (R164). -/
def execWaveStart (die : Nat) (s : State) : Out :=
  .next (let d := dieAt s die
    let live := s.bankWaits.filter (stillWaits s)
    if d.wave.isSome then s
    else
      let x := chooseBanks (min d.bankmax.toNat (bandLimit d.band)) { s with bankWaits := live } (runningCmds s die)
      if x.2.isEmpty || live.any (fun w => x.2.contains w.bank) || deviceWaits s x.2 then s
      else modDie x.1 die (fun e => { e with wave := some ⟨x.2, max d.bkidle.toNat (bandIdle d.band)⟩ }))

/-- A command stopped at the end of a wave: by a parity error, or by the halt of its partition (R299, R356). -/
def stopAtWaveEnd (s : State) (e : Nat × BankCmd) : State :=
  let c := e.2
  if c.aborted then dropBank s e.1 c
  else if (partAt s c.issuer.part).line && c.started && !c.faulted && !(waveBanks s e.1 c).isEmpty then
    dropBank (abortTile s c) e.1 c
  else s

/-- WAVE_END (R291, R164): refresh management and postponed refreshes of the banks run, waiting requests are served, those
of the host and of other packages by the next turns, and stopped commands leave. A wave may end after any number of its BLU
cycles (log entry 29). -/
def execWaveEnd (die : Nat) (s : State) : Out :=
  .next (match (dieAt s die).wave with
    | none => s
    | some w =>
      let s1 := modDie s die (fun d => { d with wave := none })
      let s2 := w.banks.foldl (fun s b =>
        let t := (tabD s.postponed b []).foldl (fun s g => refreshGroup s b g) s
        { t with postponed := tabDel t.postponed b, pendingRfm := tabDel t.pendingRfm b }) s1
      let s3 := channelWork s2
      let s4 := { s3 with agenda := s3.held.map Turn.event ++ s3.agenda, held := [] }
      (s4.bankCmds.filter (fun e => e.2.die = die && (bankDesc e.2).isSome)).foldl stopAtWaveEnd s4)

/-! ### The lens adder and retirement (R289) -/

/-- Element k of the result (LensAdd): its pattern and its saturations. -/
def lensElement (c : BankCmd) (f32res : Bool) (k : Nat) : BitVec 32 × Nat :=
  let r := satInt32 (tabD c.sums k 0)
  if f32res then ((f32Of (fvMul (fvOfInt r.1) (f32Val (c.scale.zeroExtend 64)))).truncate 32, r.2)
  else (BitVec.ofInt 32 r.1, r.2)

/-- A kernel's result elements are f32. -/
def f32Result (c : BankCmd) : Bool :=
  match c.kind with
  | .lkac d .. => !d.ot
  | _ => false

/-- Columns of which every bank of the range has sent its value. -/
def columnsComplete (s : State) (c : BankCmd) (d : BankDesc) : Nat :=
  (List.range d.nbank).foldl (fun m i => min m (bluAt s (bankId c.stack (d.bank0 + i))).sent) d.ncol

/-- A failed edge lies between a command's stack and its issuer: its results wait (R8, R378). -/
def resultCut (s : State) (c : BankCmd) : Bool := diesCut s (c.stack / 2) (dieOfCluster (clusterOfCore c.issuer.core))

/-- THE LENS ADDER DRAINS the rows of the result tile that have become complete (R289). -/
def drainRows (s : State) (id : Nat) (d : BankDesc) : State :=
  match tabGet s.bankCmds id with
  | none => s
  | some c =>
    match bankTile c with
    | none => s
    | some (_, t) =>
      let n := columnsComplete s c d / t.rlen
      if decide (n ≤ c.drained) || resultCut s c then s
      else
        let els := (List.range ((n - c.drained) * t.rlen)).map (fun k => lensElement c (f32Result c) (c.drained * t.rlen + k))
        setBank (homeWrite s (tilePa c.issuer.core t + c.drained * tileRowBytes t)
          (els.flatMap (fun e => leBytes 4 e.1.toNat))) id { c with drained := n }

/-- A kernel command's end: its tile, drained, is ready, and its saturations are counted. -/
def retireKernel (s : State) (id : Nat) (c : BankCmd) (d : BankDesc) : State :=
  let els := (List.range d.ncol).map (lensElement c (f32Result c))
  let s1 := match bankTile c with
    | some (n, t) => if sameIteration s c.issuer then tileReady s c.issuer.ctx n t.rows else s
    | none => s
  dropBank (addSat s1 c.issuer.slot c.issuer.part 2 (els.foldl (fun n e => n + e.2) c.sats)) id c

/-- BANK_COMMAND_RETIRE (R286). -/
def execBankCommandRetire (id : Nat) (s : State) : Out :=
  .next (match tabGet s.bankCmds id with
    | none => s
    | some c =>
      if !c.started || c.faulted || c.aborted || (partAt s c.issuer.part).halted then s
      else
        match bankDesc c with
        | none => if isCbld c then s else dropBank s id c
        | some d =>
          if (waveBanks s id c).isEmpty && !resultCut s c then retireKernel (drainRows s id d) id c d else s)

end Sys2Proof.Machine
end

