-- ==== Sys2Proof/Machine/Kernel.lean ====
section
/-!
DEFINITION. The bank kernel words: one step of a bank lookup unit's address or arithmetic thread (R292 to R295, R299).
-/

namespace Sys2Proof.Machine

/-- What a thread's turn works on: the bank, its unit, its command. -/
structure Kern where
  bank : Nat
  blu : Blu
  id : Nat
  cmd : BankCmd
  desc : BankDesc

/-- The turn is enabled: the bank is in a wave, its thread has not ended, its command runs. -/
def kernAt (s : State) : Option Kern :=
  let b := bluAt s s.cur.bank
  match b.cmd with
  | none => none
  | some id =>
    match tabGet s.bankCmds id with
    | none => none
    | some c =>
      match bankDesc c with
      | none => none
      | some d =>
        if inWave s s.cur.bank && c.started && !(if s.cur.arith then b.xEnded else b.aEnded) then
          some ⟨s.cur.bank, b, id, c, d⟩
        else none

def kernPc (s : State) (k : Kern) : Nat := if s.cur.arith then k.blu.xpc else k.blu.apc

/-- A bank stops: its threads run no further word. -/
def stopBlu (s : State) (bank : Nat) : State := modBlu s bank (fun b => { b with aEnded := true, xEnded := true })

/-- A fault on a bank (R295): it stops, and its command with it. A later fault of a stopped command is not recorded: it sets
MF (R355). A command that a parity error has aborted has its end already: a fault on another bank of it in the same wave
leaves no record and no MF (log entry 90). -/
def kernFault (s : State) (k : Kern) (f : FaultReq) : State :=
  let s1 := stopBlu s k.bank
  if k.cmd.aborted then s1
  else if k.cmd.faulted then raiseCmdFault s1 k.id k.cmd.issuer f
  else bankFaults s1 k.id k.cmd f

/-- BANK_PROGRAM: handle, word index, stack-local bank (Table 17.2). -/
def bankProgram (s : State) (k : Kern) (w : Nat) : State :=
  kernFault s k ⟨0x14, k.cmd.handle, BitVec.ofNat 64 w, BitVec.ofNat 16 (k.bank % 2048), 0, none⟩

/-- The BANK_ABORT record (Table 13.8). Where no row is open its row is 0, and so is the address of kind 1, for which the rule
gives no values (log entry 107). -/
def abortRecord (s : State) (k : Kern) (kind addr copy : Nat) : EventRec :=
  let u := k.bank % 2048
  let row := if kind = 2 then 0 else k.blu.openRow.getD 0
  eventHead s 0x40 k.cmd.issuer.part k.cmd.issuer.slot + k.cmd.issuer.pc.toNat * 2 ^ 128 + k.cmd.handle.toNat * 2 ^ 192 +
    k.cmd.stack * 2 ^ 256 + u / 64 * 2 ^ 259 + u % 64 * 2 ^ 264 + kind * 2 ^ 270 + row * 2 ^ 272 + addr * 2 ^ 288 +
    copy * 2 ^ 298 + (((bankTile k.cmd).map Prod.fst).getD 0) * 2 ^ 304 + (bankTile k.cmd).isSome.toNat * 2 ^ 309

/-- A parity error (R299): the detecting bank stops at once, the command aborts. A command that has faulted or aborted already
writes no further BANK_ABORT (log entry 90). -/
def kernAbort (s : State) (k : Kern) (kind addr copy : Nat) : State :=
  let s1 := stopBlu s k.bank
  if k.cmd.faulted || k.cmd.aborted then s1
  else
    let s2 := abortTile (setBank s1 k.id { k.cmd with aborted := true, sums := [], sats := 0 }) k.cmd
    logEvent s2 k.cmd.issuer.part 0 (abortRecord s k kind addr copy)

/-- A thread's word of its own kind at an index the kernel may fetch; a parity error in the word as it is fetched aborts
first (R299). -/
def kernWord (s : State) (arith : Bool) (f : Kern → State) : Out :=
  .next (match kernAt s with
    | none => s
    | some k =>
      let pc := kernPc s k
      if pc < k.desc.klo.toNat || k.desc.khi.toNat < pc then bankProgram s k pc
      else if s.cur.parity = .word then kernAbort s k 2 pc 0
      else if s.cur.arith ≠ arith then bankProgram s k pc
      else f k)

/-- The word finds a parity error in what it reads. -/
def dataError (s : State) : Bool := s.cur.parity = .data

/-! ### Loops and the PC (R104, R294) -/

/-- `EndCheck` of a kernel thread; an address loop advances its register after each pass. -/
def kernEnd (adv : Bool) (w : Nat) : Vector (BitVec 32) 8 → List KLoop → Nat × Vector (BitVec 32) 8 × List KLoop
  | n, [] => (w + 1, n, [])
  | n, e :: r =>
    if w = e.last then
      let n1 := if adv then n.set e.reg.toNat (n[e.reg.toNat]'e.reg.isLt + e.step.signExtend 32) e.reg.isLt else n
      if e.remain ≠ 0 then (e.start, n1, { e with index := e.index + 1, remain := e.remain - 1 } :: r)
      else kernEnd adv w n1 r
    else (w + 1, n, e :: r)

/-- The word at the address thread's PC is done. -/
def aNext (b : Blu) : Blu :=
  let r := kernEnd true b.apc b.n b.aLoops
  { b with apc := r.1, n := r.2.1, aLoops := r.2.2 }

def xNext (b : Blu) : Blu :=
  let r := kernEnd false b.xpc b.n b.xLoops
  { b with xpc := r.1, xLoops := r.2.2 }

/-- A target some words away; one below 0 is no word of the program memory. -/
def kernTarget (pc : Nat) (off : Int) : Nat := (BitVec.ofInt 64 ((pc : Int) + off)).toNat

def nReg (b : Blu) (i : BitVec 3) : BitVec 32 := b.n[i.toNat]'i.isLt
def zReg (b : Blu) (i : Nat) : BitVec 32 := b.z.getD i 0

/-- A bank that has ended with fewer values than columns faults (R289). -/
def checkEnded (s : State) (k : Kern) (b : Blu) : State :=
  let s1 := setBlu s k.bank b
  if b.aEnded && b.xEnded && decide (b.sent < k.desc.ncol) then bankProgram s1 k b.endWord else s1

/-! ### The address thread (R294) -/

/-- Opens rows, checked in the order R294 gives; `abs` are their absolute numbers. -/
def openRows (s : State) (k : Kern) (rows : List Nat) (mra : Bool) : Except State (List Nat) :=
  if k.blu.openRow.isSome then .error (bankProgram s k k.blu.apc)
  else
    match rows.find? (fun r => decide (k.cmd.nrow ≤ r)) with
    | some r => .error (kernFault s k ⟨0x07, BitVec.ofNat 64 r, BitVec.ofNat 64 k.cmd.nrow, 0, 0, none⟩)
    | none =>
      let abs := rows.map (fun r => k.cmd.lo + r)
      if mra && (!abs.Nodup || abs.any (fun r => decide (r < computeRow))) then .error (bankProgram s k k.blu.apc)
      else .ok abs

def execKAct (a : BitVec 3) (imm : BitVec 15) (s : State) : Out :=
  kernWord s false (fun k =>
    match openRows s k [(nReg k.blu a).toNat + imm.toNat] false with
    | .error t => t
    | .ok abs =>
      let row := abs.headD 0
      setBlu (activate s k.bank row 1 k.cmd.issuer.slot) k.bank { aNext k.blu with openRow := some row })

/-- The bytes of a bank's row. -/
def bankRowBytes (s : State) (k : Kern) (row off n : Nat) : List Byte :=
  memRead s.mem (bankAddr k.cmd.stack (k.bank % 2048) row off) n

def execKCol (a : BitVec 3) (imm : BitVec 10) (s : State) : Out :=
  kernWord s false (fun k =>
    let off := (nReg k.blu a + imm.zeroExtend 32).toNat % 1024
    match k.blu.openRow with
    | none => bankProgram s k k.blu.apc
    | some row =>
      if off % 32 ≠ 0 then bankProgram s k k.blu.apc
      else if 64 ≤ k.blu.iq.length then s
      else if dataError s then kernAbort s k 1 0 0
      else
        let pa := bankAddr k.cmd.stack (k.bank % 2048) row off
        if poisoned s pa then kernFault s k (uncorrectable 0 (lineOf pa) 0)
        else setBlu s k.bank { aNext k.blu with iq := k.blu.iq ++ [bankRowBytes s k row off 32] })

def execKPre (s : State) : Out :=
  kernWord s false (fun k => setBlu s k.bank { aNext k.blu with openRow := none })

/-- The majority of three bytes, bit by bit. -/
def majority (x y z : Byte) : Byte := (x &&& y) ||| (x &&& z) ||| (y &&& z)

/-- A whole row is written; its lines' errors are gone (R165). -/
def writeRow (s : State) (k : Kern) (b : List Byte) (row : Nat) : State :=
  homeWrite s (bankAddr k.cmd.stack (k.bank % 2048) row 0) b

/-- The first line of some rows that holds an uncorrectable error. -/
def rowsPoison (s : State) (k : Kern) (rows : List Nat) : Option Nat :=
  rows.findSome? (fun r => poisonIn s (bankAddr k.cmd.stack (k.bank % 2048) r 0) 1024)

/-- `b.mra` (R291, R292, R298): of the three rows that it leaves open the bank goes on with nA's, the one that the next wave opens
again, which is the model's choice (log entry 106). -/
def execKMra (a b cc : BitVec 3) (s : State) : Out :=
  kernWord s false (fun k =>
    match openRows s k [(nReg k.blu a).toNat, (nReg k.blu b).toNat, (nReg k.blu cc).toNat] true with
    | .error t => t
    | .ok abs =>
      match rowsPoison s k abs with
      | some l => kernFault s k (uncorrectable 0 l 0)
      | none =>
      let bytes (i : Nat) : List Byte := bankRowBytes s k (abs.getD i 0) 0 1024
      let m := List.zipWith (fun x yz => majority x yz.1 yz.2) (bytes 0) (List.zip (bytes 1) (bytes 2))
      let s1 := abs.foldl (fun s r => writeRow (activate s k.bank r 2 k.cmd.issuer.slot) k m r) s
      setBlu s1 k.bank { aNext k.blu with openRow := some (abs.headD 0) })

/-- `b.aloop` with its count (R294). -/
def aLoop (s : State) (k : Kern) (a : BitVec 3) (step : BitVec 7) (count : Nat) (off : BitVec 10) : State :=
  let b := k.blu
  if off = 0 then bankProgram s k b.apc
  else if count = 0 then setBlu s k.bank { b with apc := b.apc + off.toNat + 1 }
  else if b.aLoops.length = 4 then bankProgram s k b.apc
  else
    setBlu s k.bank (aNext { b with
      aLoops := ⟨a, step, 0, count - 1, b.apc + 1, b.apc + off.toNat⟩ :: b.aLoops })

def execKAloopR (a : BitVec 3) (step : BitVec 7) (cnt : BitVec 3) (off : BitVec 10) (s : State) : Out :=
  kernWord s false (fun k => aLoop s k a step (nReg k.blu cnt).toNat off)

/-- The immediate holds count − 1. -/
def execKAloopI (a : BitVec 3) (step : BitVec 7) (cnt : BitVec 5) (off : BitVec 10) (s : State) : Out :=
  kernWord s false (fun k => aLoop s k a step (cnt.toNat + 1) off)

def execKAjmp (off : BitVec 11) (s : State) : Out :=
  kernWord s false (fun k =>
    let t := kernTarget k.blu.apc off.toInt
    setBlu s k.bank { k.blu with
      apc := t
      aLoops := k.blu.aLoops.dropWhile (fun e => !(decide (e.start ≤ t) && decide (t ≤ e.last))) })

def execKAend (s : State) : Out :=
  kernWord s false (fun k => checkEnded s k { k.blu with openRow := none, aEnded := true })

def execKSqpop (a : BitVec 3) (s : State) : Out :=
  kernWord s false (fun k =>
    match k.blu.sq with
    | [] => if k.blu.xEnded then bankProgram s k k.blu.apc else s
    | v :: r => setBlu s k.bank (aNext { k.blu with sq := r, n := k.blu.n.set a.toNat v a.isLt }))

/-! ### The arithmetic thread (R295) -/

def execKIqpop (s : State) : Out :=
  kernWord s true (fun k =>
    match k.blu.iq with
    | [] => if k.blu.aEnded then bankProgram s k k.blu.xpc else s
    | l :: r =>
      if dataError s then kernAbort s k 1 0 0
      else setBlu s k.bank (xNext { k.blu with iq := r, ib := l }))

/-- An entry of a bank's tables; one that no `tbld` has built is a free value (R282; log entry 14). -/
def tableAt (s : State) (bank e : Nat) : BitVec 32 := tabD s.tables (1024 * bank + e) (Config.tableEntry bank e)

/-- Eight additions of a `b.lk`: the z registers and the saturations. -/
def lookupEight (s : State) (k : Kern) (n part base bg : Nat) : Blu × Nat :=
  (List.range 8).foldl (fun (r : Blu × Nat) i =>
    let y := (k.blu.ib.getD (8 * part + i) 0).toNat % 2 ^ bg
    let v := satInt32 ((zReg r.1 (n + i)).toInt + (tableAt s k.bank (base + y)).toInt)
    ({ r.1 with z := r.1.z.setIfInBounds (n + i) (BitVec.ofInt 32 v.1) }, r.2 + v.2)) (k.blu, 0)

/-- `b.lk` with its table and group width. -/
def lookup (s : State) (k : Kern) (n : BitVec 3) (part : BitVec 2) (tb bg : Nat) (idx : Bool) : State :=
  let xi := (k.blu.xLoops.head?.map KLoop.index).getD 0
  let base := tb + if idx then xi * 2 ^ bg else 0
  if bg = 0 || decide (8 < bg) then bankProgram s k k.blu.xpc
  else if 1024 < base + 2 ^ bg then bankProgram s k k.blu.xpc
  else if dataError s then
    let copy := (Config.abortByte s.free 0).toNat % 8
    let y := (k.blu.ib.getD (8 * part.toNat + copy) 0).toNat % 2 ^ bg
    kernAbort { s with free := s.free + 1 } k 0 (base + y) copy
  else
    let r := lookupEight s k (8 * n.toNat) part.toNat base bg
    let s1 := setBlu s k.bank (xNext r.1)
    let s2 := if k.cmd.faulted || k.cmd.aborted then s1 else setBank s1 k.id { k.cmd with sats := k.cmd.sats + r.2 }
    addPm s2 k.cmd.issuer.slot 11 8

def execKLk (n : BitVec 3) (part : BitVec 2) (tb : BitVec 10) (bg : BitVec 4) (s : State) : Out :=
  kernWord s true (fun k => lookup s k n part tb.toNat bg.toNat false)
def execKLkI (n : BitVec 3) (part : BitVec 2) (tb : BitVec 10) (bg : BitVec 4) (s : State) : Out :=
  kernWord s true (fun k => lookup s k n part tb.toNat bg.toNat true)
def execKLkD (n : BitVec 3) (part : BitVec 2) (s : State) : Out :=
  kernWord s true (fun k => lookup s k n part k.desc.tb (k.desc.b * k.desc.g) true)
def execKLkDn (n : BitVec 3) (part : BitVec 2) (s : State) : Out :=
  kernWord s true (fun k => lookup s k n part k.desc.tb (k.desc.b * k.desc.g) false)

/-- The run of z registers of `b.zclr` and `b.zout`. -/
def zRun (s : State) (k : Kern) (n : BitVec 6) (cnt : BitVec 7) (f : List Nat → State) : State :=
  if cnt = 0 || decide (64 < n.toNat + cnt.toNat) then bankProgram s k k.blu.xpc
  else f ((List.range cnt.toNat).map (· + n.toNat))

def execKZclr (n : BitVec 6) (cnt : BitVec 7) (s : State) : Out :=
  kernWord s true (fun k => zRun s k n cnt (fun l =>
    setBlu s k.bank (xNext { k.blu with z := l.foldl (fun z i => z.setIfInBounds i 0) k.blu.z })))

/-- The values go to the lens adder: the k-th of the bank to column k, those beyond ncol nowhere (R289). -/
def execKZout (n : BitVec 6) (cnt : BitVec 7) (s : State) : Out :=
  kernWord s true (fun k => zRun s k n cnt (fun l =>
    let s1 := setBlu s k.bank (xNext { k.blu with sent := k.blu.sent + l.length })
    if k.cmd.faulted || k.cmd.aborted then s1
    else
      let sums := l.zipIdx.foldl (fun t e =>
        let col := k.blu.sent + e.2
        if col < k.desc.ncol then tabPut t col (tabD t col 0 + (zReg k.blu e.1).toInt) else t) k.cmd.sums
      drainRows (setBank s1 k.id { k.cmd with sums := sums }) k.id k.desc))

/-- `b.xloop` with its count (R295). -/
def xLoop (s : State) (k : Kern) (count : Nat) (off : BitVec 10) : State :=
  let b := k.blu
  if off = 0 then bankProgram s k b.xpc
  else if count = 0 then setBlu s k.bank { b with xpc := b.xpc + off.toNat + 1 }
  else if b.xLoops.length = 4 then bankProgram s k b.xpc
  else
    setBlu s k.bank (xNext { b with
      xLoops := ⟨0, 0, 0, count - 1, b.xpc + 1, b.xpc + off.toNat⟩ :: b.xLoops })

def execKXloopR (p : BitVec 3) (off : BitVec 10) (s : State) : Out :=
  kernWord s true (fun k => xLoop s k (k.blu.p[p.toNat]'p.isLt).toNat off)

def execKXloopI (cnt : BitVec 12) (off : BitVec 10) (s : State) : Out :=
  kernWord s true (fun k => xLoop s k (cnt.toNat + 1) off)

def execKXend (s : State) : Out :=
  kernWord s true (fun k => checkEnded s k { k.blu with xEnded := true, endWord := k.blu.xpc })

def execKSqpush (n : BitVec 6) (s : State) : Out :=
  kernWord s true (fun k =>
    if 16 ≤ k.blu.sq.length then s
    else setBlu s k.bank (xNext { k.blu with sq := k.blu.sq ++ [zReg k.blu n.toNat] }))

/-- UNASSIGNED_KERNEL_WORD (R293): a word that is no kernel instruction, or lies outside the kernel's range, reached. A
soft error in a word read aborts instead (R299). -/
def execUnassignedKernelWord (_w : BitVec 32) (s : State) : Out :=
  .next (match kernAt s with
    | none => s
    | some k =>
      let pc := kernPc s k
      if s.cur.parity = .word && k.desc.klo.toNat ≤ pc && pc ≤ k.desc.khi.toNat then kernAbort s k 2 pc 0
      else bankProgram s k pc)

/-! ### Fetching (R292, R296) -/

/-- The ROM image: the standard lookup kernel (Table 13.7), zero beyond it. -/
def romWords : List (BitVec 32) :=
  [0x14018404, 0x04000000, 0x15207C01, 0x09000000, 0x0C000000, 0x1C000000, 0x52C0000D, 0x48080000, 0x5300000A,
   0x40000000, 0x44180000, 0x44B80000, 0x45580000, 0x45F80000, 0x40000000, 0x46180000, 0x46B80000, 0x47580000,
   0x47F80000, 0x4C080000, 0x54000000]

/-- A word of the bank program memory. -/
def kernelWord (s : State) (stack w : Nat) : BitVec 32 :=
  if w < 512 then romWords.getD w 0 else tabD (stackAt s stack).prog w 0

end Sys2Proof.Machine
end

