-- ==== Sys2Proof/Machine/Block.lean ====
section
/-!
DEFINITION. Context blocks: a context written to its block and read from it (R86 to R88, Tables 4.3, 4.4, 12.3 and 14.5).
-/

namespace Sys2Proof.Machine

/-! ### Writing (R88) -/

def wordBytes (w : Word) : List Byte := leBytes 8 w.toNat

/-- A loop-stack entry (Table 4.4). -/
def loopBytes (e : LoopEntry) : List Byte :=
  wordBytes e.index ++ wordBytes e.remain ++ wordBytes e.start ++ leBytes 8 (e.last.toNat / 8 * 8 + e.p.toNat)

/-- A stream binding (Table 12.3). -/
def bindBits (b : Binding) : Nat :=
  b.next.toNat + b.remain.toNat * 2 ^ 64 + b.stride.toNat * 2 ^ 96 + b.z.toNat * 2 ^ 120 + b.sx.toNat * 2 ^ 123 +
    b.dir.toNat * 2 ^ 124 + b.bound.toNat * 2 ^ 125

def isPinWait (q : Seq) : Bool :=
  match q.status with
  | .pinWait _ => true
  | _ => false

/-- The header word at 0x0020. -/
def headerBits (c : Ctx) : Nat :=
  c.a.loops.length + c.x.loops.length * 2 ^ 4 + c.masks.length * 2 ^ 8 + (tyCode c.acc0.tag).toNat * 2 ^ 12 +
    (tyCode c.acc1.tag).toNat * 2 ^ 16 + c.slices * 2 ^ 20 + (decide (c.a.status = .idle)).toNat * 2 ^ 24 +
    c.prio.toNat * 2 ^ 25 + (isPinWait c.a).toNat * 2 ^ 27 + (isPinWait c.x).toNat * 2 ^ 28

def tagBits (c : Ctx) : Nat :=
  (List.range 32).foldl (fun n i => n + (tyCode (c.v.getD i ⟨.none, []⟩).tag).toNat * 2 ^ (4 * i)) 0

/-- What is written for one sequencer: its x registers but the dead ones, then the places of its o, l and loop stack. The
slot of x0, which Table 4.3 says holds 0, is written too (log entry 92). -/
def seqPieces (q : Seq) (x o l lp : Nat) : List (Nat × List Byte) :=
  (x, leBytes 8 0) ::
    ((List.range 32).filterMap (fun i =>
      if i ≠ 0 && q.live.getLsbD i then some (x + 8 * i, wordBytes (q.x.getD i 0)) else none)) ++
    [(o, q.o.toList.flatMap wordBytes), (l, q.l.toList.flatMap wordBytes),
     (lp, (q.loops ++ List.replicate (6 - q.loops.length) LoopEntry.zero).flatMap loopBytes)]

def accBytes (a : Acc) : List Byte := (List.range 1024).flatMap (fun i => leBytes 4 (tabD a.el i 0).toNat)

/-- The live masks (Table 4.3). -/
def liveBytes (c : Ctx) : List Byte := leBytes 4 (c.a.live.toNat / 2 * 2) ++ leBytes 4 (c.x.live.toNat / 2 * 2)

/-- Everything R88 writes, by offset. -/
def blockPieces (c : Ctx) : List (Nat × List Byte) :=
  let vb := 1024 * c.slices
  [(0x00, wordBytes c.a.pc), (0x08, wordBytes c.x.pc),
    (0x10, liveBytes c),
    (0x18, wordBytes c.gang), (0x20, leBytes 8 (headerBits c)), (0x28, leBytes 16 (tagBits c)), (0x38, wordBytes c.vl)] ++
  seqPieces c.a 0x40 0x240 0x2C0 0x300 ++ seqPieces c.x 0x140 0x280 0x2E0 0x3C0 ++
  [(0x480, wordBytes c.a.rl ++ wordBytes c.a.tl ++ wordBytes c.x.rl ++ wordBytes c.x.tl ++ leBytes 32 0),
    (0x4C0, c.binds.toList.flatMap (fun b => leBytes 16 (bindBits b))),
    (0x500, c.tiles.toList.flatMap (fun t => leBytes 32 (tileBits t)))] ++
  (if c.acc0.tag = .none then [] else [(0x900, accBytes c.acc0)]) ++
  (if c.acc1.tag = .none then [] else [(0x1900, accBytes c.acc1)]) ++
  c.masks.reverse.zipIdx.map (fun e => (0x2900 + 128 * c.slices * e.2, leBytes (128 * c.slices) e.1.toNat)) ++
  (List.range 32).filterMap (fun i =>
    let r := c.v.getD i ⟨.none, []⟩
    if r.tag = .none then none else some (0x2900 + vb + i * vb, r.data.take vb))

/-- The pieces cover all 128 bytes of a line (R165). -/
def wholeLine (base : Nat) (l : List (Nat × List Byte)) (line : Nat) : Bool :=
  (List.range 128).all (fun i =>
    l.any (fun p => decide (base + p.1 ≤ 128 * line + i) && decide (128 * line + i < base + p.1 + p.2.length)))

/-- A context is written to its block, but for what a failed link cuts off from its core (log entry 32); a line written in full is
good again (R165). -/
def saveCtx (s : State) (key : Nat) : State :=
  let c := ctxAt s key
  let base := ctxBlock s key
  let l := (blockPieces c).filter (fun p => !rangeCut s c.core (base + p.1) p.2.length)
  let s1 := l.foldl (fun t p => writeMem t (base + p.1) p.2) s
  let s2 := { s1 with poison := s.poison.filter (fun n => !wholeLine base l n) }
  setCtx ((linesOf (l.map (fun p => (base + p.1, p.2.length)))).foldl (blockLine c.core true) s2) key { c with saved := true }

/-! ### What a sequencer's registers and the live masks leave in the block (R85) -/

/-- Offset of an x register in the block (Table 4.3). -/
def xOffset (sd : Side) (i : BitVec 5) : Nat := (match sd with | .a => 0x40 | .x => 0x140) + 8 * i.toNat

/-- The registers a sequencer's register cache has given up are written to the context block (R85). -/
def writeEvicted (s : State) (key : Nat) (sd : Side) : State :=
  let c := ctxAt s key
  let q := seqOf c sd
  if q.evicted.isEmpty then s
  else
    modCtx (q.evicted.foldl (fun t i =>
        blockWrite t c.part c.core (ctxBlock s key + xOffset sd i) (wordBytes (q.x.getD i.toNat 0))) s) key
      (fun c => setSeq c sd { seqOf c sd with evicted := [] })

/-- The block's live masks follow a change (R85). -/
def writeLive (before s : State) (key : Nat) : State :=
  let c := ctxAt s key
  if (tabGet s.ctxs key).isNone || liveBytes (ctxAt before key) = liveBytes c then s
  else blockWrite s c.part c.core (ctxBlock s key + 0x10) (liveBytes c)

/-- What the device reads of a block, at these addresses, holds an uncorrectable error: a fault of a sequencer of the context
(R165; log entry 82). -/
def blockError (s : State) (key : Nat) (sd : Side) (l : List (Nat × Nat)) : State :=
  match l.findSome? (fun r => poisonIn s r.1 r.2) with
  | none => s
  | some line => raiseCtxFault s key sd (uncorrectable 0 line 0)

/-- Where a context's block holds it. -/
def blockRanges (s : State) (key : Nat) : List (Nat × Nat) :=
  (blockPieces (ctxAt s key)).map (fun p => (ctxBlock s key + p.1, p.2.length))

/-! ### Reading (R88, R89) -/

def tileOfBits (v : Nat) : Tile :=
  { st := (match bitsOf v 0 2 with | 0 => .empty | 1 => .filling | 2 => .ready | _ => .draining)
    defined := bitsOf v 2 1 = 1, ab := bitsOf v 3 1 = 1, ty := tyOfCode (BitVec.ofNat 4 (bitsOf v 4 4))
    pf := bitsOf v 8 1 = 1, mx := bitsOf v 9 1 = 1, sn := BitVec.ofNat 2 (bitsOf v 10 2), nr := bitsOf v 16 16
    base := bitsOf v 64 20, rows := bitsOf v 96 16, rlen := bitsOf v 128 24 }

def loopOfBytes (m : List Host.Cell) (a : Nat) : LoopEntry :=
  let e := memNat m (a + 24) 8
  ⟨memWord m a, memWord m (a + 8), memWord m (a + 16), BitVec.ofNat 64 (e / 8 * 8), e % 2 = 1⟩

def bindOfBits (v : Nat) (own : Side) : Binding :=
  ⟨BitVec.ofNat 64 v, BitVec.ofNat 32 (bitsOf v 64 32), BitVec.ofNat 24 (bitsOf v 96 24), BitVec.ofNat 3 (bitsOf v 120 3),
    bitsOf v 123 1 = 1, bitsOf v 124 1 = 1, bitsOf v 125 1 = 1, own⟩

/-- The lowest-numbered live registers fill the register cache (R89). Their order of use, which R85 asks for and nothing gives, is
the model's choice: the lowest-numbered counts as the most recently used (log entry 99). -/
def cacheFill (live : BitVec 32) : List (BitVec 5) :=
  (((List.range 32).filter (fun i => i ≠ 0 && live.getLsbD i)).take 16).map (BitVec.ofNat 5)

/-- A sequencer as its block gives it. What the block does not hold (its status, the fences in force, the boundary it
stands at) the device keeps. -/
def seqOfBlock (m : List Host.Cell) (q : Seq) (pc live depth x o l lp rl : Nat) (pin : Bool) : Seq :=
  let lv : BitVec 32 := BitVec.ofNat 32 (memNat m live 4 / 2 * 2)
  { q with
    pc := memWord m pc
    live := lv
    x := Vector.ofFn (fun i => if lv.getLsbD i.val then memWord m (x + 8 * i.val) else 0)
    o := Vector.ofFn (fun i => memWord m (o + 8 * i.val))
    l := Vector.ofFn (fun i => memWord m (l + 8 * i.val))
    loops := (List.range (min depth 6)).map (fun i => loopOfBytes m (lp + 32 * i))
    rl := memWord m rl
    tl := memWord m (rl + 8)
    rc := cacheFill lv
    late := []
    dirty := 0
    evicted := []
    status := if isPinWait q && !pin then .running else q.status }

def accOfBlock (m : List Host.Cell) (a code : Nat) : Acc :=
  if code = 0 then Acc.reset
  else ⟨tyOfCode (BitVec.ofNat 4 code), (List.range 1024).filterMap (fun i =>
    let v : BitVec 32 := BitVec.ofNat 32 (memNat m (a + 4 * i) 4)
    if v = 0 then none else some (i, v))⟩

/-- A context as its block gives it. A vector register the block does not hold comes back with tag 0x0 and unspecified
contents (log entry 13). -/
def ctxOfBlock (s : State) (key : Nat) : Ctx :=
  let c := ctxAt s key
  let b := ctxBlock s key
  let h := memNat s.mem (b + 0x20) 8
  let vb := 1024 * c.slices
  let fresh := freshRegs c.slices s.free
  let a := seqOfBlock s.mem c.a b (b + 0x10) (bitsOf h 0 4) (b + 0x40) (b + 0x240) (b + 0x2C0) (b + 0x300) (b + 0x480)
    (bitsOf h 27 1 = 1)
  let x := seqOfBlock s.mem c.x (b + 8) (b + 0x14) (bitsOf h 4 4) (b + 0x140) (b + 0x280) (b + 0x2E0) (b + 0x3C0)
    (b + 0x490) (bitsOf h 28 1 = 1)
  { c with
    gang := memWord s.mem (b + 0x18)
    prio := BitVec.ofNat 2 (bitsOf h 25 2)
    vl := memWord s.mem (b + 0x38)
    a := if bitsOf h 24 1 = 1 then { a with status := .idle } else a
    x := x
    binds := Vector.ofFn (fun i => bindOfBits (memNat s.mem (b + 0x4C0 + 16 * i.val) 16) (c.binds[i.val]'i.isLt).own)
    tiles := Vector.ofFn (fun i => tileOfBits (memNat s.mem (b + 0x500 + 32 * i.val) 32))
    acc0 := accOfBlock s.mem (b + 0x900) (bitsOf h 12 4)
    acc1 := accOfBlock s.mem (b + 0x1900) (bitsOf h 16 4)
    masks := ((List.range (min (bitsOf h 8 4) 8)).map (fun j =>
      BitVec.ofNat 12288 (memNat s.mem (b + 0x2900 + 128 * c.slices * j) (128 * c.slices)))).reverse
    v := Vector.ofFn (fun i =>
      let t := bitsOf (memNat s.mem (b + 0x28) 16) (4 * i.val) 4
      if t = 0 then fresh[i.val]'i.isLt
      else ⟨tyOfCode (BitVec.ofNat 4 t), memRead s.mem (b + 0x2900 + vb + i.val * vb) vb⟩) }

/-- A context read from its block, through the L1 of its core (R86, R89). -/
def restoreCtx (s : State) (key : Nat) : State :=
  let s1 := setCtx s key (ctxOfBlock s key)
  (linesOf (blockRanges s1 key)).foldl (blockLine (ctxAt s key).core false) { s1 with free := s1.free + 1 }

end Sys2Proof.Machine
end

