-- ==== Sys2Proof/Machine/Sched.lean ====
section
/-!
DEFINITION. The cluster scheduler's rules: loop-nest records (R260 to R263), the pending pool (R264), range conflicts
(R267), which work may take a slot (R271), boundaries (R274), and starting an iteration (R71, R83, R273).
-/

namespace Sys2Proof.Machine

/-! ### Loop-nest records -/

/-- The fields of a 128-byte record (Table 12.4). -/
def recOf (h : Nat) : LnRec :=
  let w (i : Nat) : Word := BitVec.ofNat 64 (bitsOf h i 64)
  { control := w 0, xentry := w 64, aentry := w 128
    extents := Vector.ofFn (fun i => BitVec.ofNat 32 (bitsOf h (192 + 32 * i.val) 32))
    launch := w 384, caddr := w 448, args := w 512, res := w 576
    reads := Vector.ofFn (fun i => w (640 + 64 * i.val)), writes := Vector.ofFn (fun i => w (832 + 64 * i.val)) }

/-! The control word (Table 12.5) and the resources word. -/

def LnRec.prio (r : LnRec) : BitVec 2 := r.control.truncate 2
def LnRec.levels (r : LnRec) : Nat := bitsOf r.control.toNat 2 3
def LnRec.order (r : LnRec) (k : Nat) : Nat := bitsOf r.control.toNat (5 + 3 * k) 3
def LnRec.timed (r : LnRec) : Bool := r.control.getLsbD 23
def LnRec.preemptible (r : LnRec) : Bool := r.control.getLsbD 24
def LnRec.zeroiter (r : LnRec) : Bool := r.control.getLsbD 25
def LnRec.cscope (r : LnRec) : BitVec 3 := BitVec.ofNat 3 (bitsOf r.control.toNat 26 3)
def LnRec.cinc (r : LnRec) : Nat := bitsOf r.control.toNat 32 32
def LnRec.scratch (r : LnRec) : Nat := bitsOf r.res.toNat 0 32
def LnRec.slices (r : LnRec) : Nat := bitsOf r.res.toNat 32 4
def LnRec.extent (r : LnRec) (k : Nat) : Nat := (r.extents.getD k 0).toNat

/-- N: the iterations of the gang. -/
def LnRec.count (r : LnRec) : Nat := ((List.range r.levels).map r.extent).prod

/-- Base and length of a range word, in 64-byte units (R261). -/
def rangeOfWord (w : Word) : Nat × Nat := (bitsOf w.toNat 0 41, bitsOf w.toNat 41 23)

def LnRec.readRanges (r : LnRec) : List (Nat × Nat) := r.reads.toList.map rangeOfWord
def LnRec.writeRanges (r : LnRec) : List (Nat × Nat) := r.writes.toList.map rangeOfWord
def LnRec.ranged (r : LnRec) : Bool := (r.readRanges ++ r.writeRanges).any (fun e => e.2 ≠ 0)

/-- A malformed record (R263). -/
def recMalformed (r : LnRec) : Bool :=
  let lv := r.levels
  let low := (List.range lv).map r.order
  bitsOf r.control.toNat 29 3 ≠ 0 || bitsOf r.res.toNat 36 28 ≠ 0 || lv = 0 || lv = 7 ||
    !(low.all (fun o => decide (o < lv)) && decide low.Nodup) ||
    (List.range 6).any (fun k => decide (lv ≤ k) && (r.order k ≠ k || r.extent k ≠ 1)) ||
    (r.count = 0 && !r.zeroiter) || decide (2 ^ 48 - 1 < r.count) ||
    r.xentry = 0 || r.xentry.toNat % 8 ≠ 0 || r.aentry.toNat % 8 ≠ 0 ||
    (r.cinc ≠ 0 && r.caddr.toNat % 8 ≠ 0) || decide (r.cscope.toNat < 3) || (!r.timed && r.launch ≠ 0) ||
    decide (1048576 < r.scratch) ||
    !(r.slices = 0 || r.slices = 1 || r.slices = 2 || r.slices = 4 || r.slices = 12) ||
    (r.readRanges ++ r.writeRanges).any (fun e => decide (4194304 < e.2))

/-- Two ranges share a unit, counted modulo 2^41 units (R261). -/
def rangesMeet (a b : Nat × Nat) : Bool :=
  let gap (x y : Nat) : Nat := (x + 2 ^ 41 - y) % 2 ^ 41
  a.2 ≠ 0 && b.2 ≠ 0 && (decide (gap b.1 a.1 < a.2) || decide (gap a.1 b.1 < b.2))

def listsMeet (a b : List (Nat × Nat)) : Bool := a.any (fun x => b.any (rangesMeet x))

/-- Conflicting tasks of one cluster (R267). -/
def recsConflict (a b : LnRec) : Bool :=
  listsMeet a.writeRanges (b.readRanges ++ b.writeRanges) || listsMeet a.readRanges b.writeRanges

/-! ### Tasks -/

def taskAt (s : State) (t : Nat) : Option Task := tabGet s.tasks t
def setTask (s : State) (id : Nat) (t : Task) : State := { s with tasks := tabPut s.tasks id t }

/-- The tasks of a cluster in post order. -/
def clusterTasks (s : State) (cluster : Nat) : List (Nat × Task) := s.tasks.filter (fun e => e.2.cluster = cluster)

/-- The pool entry a task of a priority would take (R264): one of the 192 shared, else one of 16 of its priority. -/
def poolEntry (s : State) (cluster : Nat) (prio : BitVec 2) : Option PoolEntry :=
  let l := clusterTasks s cluster
  if l.countP (fun e => e.2.pool = .shared) < 192 then some .shared
  else if l.countP (fun e => e.2.pool = .reserved && e.2.rcd.prio = prio) < 16 then some .reserved
  else none

/-- An accepted task enters the pool (R264); `core` and `cut` are the stores its `post` releases (R262). -/
def acceptTask (s : State) (part cluster : Nat) (r : LnRec) (recAddr : Word) (counter : Nat × WPolicy) (e : PoolEntry)
    (core cut : Nat) : State :=
  let t : Task :=
    { part := part, cluster := cluster, rcd := r, recAddr := recAddr, counter := counter, pool := e, entered := false,
      deps := [], prio := r.prio, relCore := core, relCut := cut, dispatched := 0, ended := 0,
      launched := !r.timed || decide (r.launch.toNat ≤ s.now), prepared := false, readyNs := 0, addSent := false, cuts := [] }
  bumpIds (setTask s s.ids t)

/-- Free of dependences, in the window if ranged, and its `post`'s release has come about (R262, R268, R269). -/
def taskReleased (s : State) (t : Task) : Bool :=
  (t.entered || !t.rcd.ranged) && t.deps.isEmpty && !coreStoresBelow s t.relCore t.relCut

/-- A dispatchable task (R271). -/
def dispatchable (s : State) (t : Task) : Bool :=
  taskReleased s t && t.launched && decide (t.dispatched < t.rcd.count)

/-! ### Resources (R271) -/

/-- The tasks with iterations on a core. -/
def coreTasks (s : State) (core : Nat) : List Nat :=
  ((s.ctxs.filter (fun e => e.2.core = core)).map (fun e => e.2.task)).dedup

/-- The core has scratchpad bytes left for a task's iterations. -/
def scratchFits (s : State) (core id : Nat) (t : Task) : Bool :=
  let others := (coreTasks s core).filter (fun k => k ≠ id)
  let used := (others.map (fun k => ((taskAt s k).map (fun u => u.rcd.scratch)).getD 0)).sum
  decide (used + t.rcd.scratch ≤ 1048576)

/-- The slice group an iteration would take; none where the pool has no room. -/
def groupFor (s : State) (core n : Nat) (out : Option Nat) : Option Nat :=
  if n = 0 then some 0 else freeGroup s (poolOfCore core) n out

/-- A core meets a task's resources, once the context `out` has left its slices. -/
def taskFits (s : State) (core id : Nat) (t : Task) (out : Option Nat) : Bool :=
  (groupFor s core t.rcd.slices out).isSome && scratchFits s core id t

/-- Contexts of a cluster. -/
def clusterCtxs (s : State) (cluster : Nat) : List (Nat × Ctx) := s.ctxs.filter (fun e => clusterOfCore e.2.core = cluster)

def staging (s : State) (key : Nat) : Bool :=
  s.slots.any (fun e => e.2.mirror = .staging (.ctx key) || e.2.mirror = .staged (.ctx key))

/-- A swapped-out sequencer could go on (R271, R274). -/
def seqRunnable (s : State) (key : Nat) (sd : Side) (q : Seq) : Bool :=
  match q.status with
  | .idle | .done | .faulted | .waiting (.counter ..) | .pinWait _ => false
  | .running | .until _ | .waiting (.yield _) | .waiting (.satisfied _) => true
  | .waiting (.outstanding set limit) =>
    decide (([AClass.s, .v, .e, .t].map (fun c =>
      if set.getLsbD (classBit c) then outstanding s key sd c else 0)).sum ≤ limit.toNat)

/-- A runnable context bound to a core. -/
def ctxRunnable (s : State) (core : Nat) (e : Nat × Ctx) : Bool :=
  e.2.core = core && e.2.place = .out && e.2.saved && !staging s e.1 &&
    (seqRunnable s e.1 .a e.2.a || seqRunnable s e.1 .x e.2.x)

/-- Work of one priority for a slot (R271): runnable contexts first, the oldest one (by when it last began to run), then
tasks in post order. `out` is the context that would leave the slot. -/
def workAt (s : State) (slot : Nat) (out : Option Nat) (p : BitVec 2) : Option Incoming :=
  let core := coreOfSlot slot
  let cl := clusterOfCore core
  let back := (s.ctxs.filter (fun e => ctxRunnable s core e && e.2.prio = p && some e.1 ≠ out &&
    (groupFor s core e.2.slices none).isSome)).mergeSort (fun a b => a.2.since ≤ b.2.since)
  match back with
  | e :: _ => some (.ctx e.1)
  | [] =>
    if 1024 ≤ (clusterCtxs s cl).length then none
    else
      ((clusterTasks s cl).find? (fun e => dispatchable s e.2 && e.2.prio = p && taskFits s core e.1 e.2 out)).map
        (fun e => .new e.1 0 e.2.rcd.slices)

/-- The work the scheduler picks for a slot, highest priority first. -/
def pickWork (s : State) (slot : Nat) (out : Option Nat) : Option Incoming :=
  [3, 2, 1, 0].findSome? (fun p => workAt s slot out p)

/-! ### Boundaries (R274) -/

def preemptibleTask (s : State) (c : Ctx) : Bool := ((taskAt s c.task).map (fun t => t.rcd.preemptible)).getD false

/-- A swappable loop boundary. -/
def atLoopBoundary (s : State) (key : Nat) (c : Ctx) : Bool :=
  queuesClear s key c && sameBoundary c && preemptibleTask s c

/-- A wait boundary. -/
def atWaitBoundary (s : State) (key : Nat) (c : Ctx) : Bool := queuesClear s key c && waitBoundary c

/-! ### The start of an iteration (R71, R83, R273) -/

/-- `Walk`: the loop indices of iteration `n`, by level. -/
def walkIdx (r : LnRec) (n : Nat) : Nat → Nat → Tab Nat → Tab Nat
  | 0, _, t => t
  | k + 1, m, t =>
    let lv := r.order (r.levels - (k + 1))
    let e := r.extent lv
    walkIdx r n k (m / e) (tabPut t lv (m % e))

def walk (r : LnRec) (n : Nat) : List Word :=
  let t := walkIdx r n r.levels n []
  (List.range 6).map (fun l => BitVec.ofNat 64 (tabD t l 0))

/-- A sequencer at its start: the eight registers that dispatch sets are live and in the register cache, and no block holds
them (R83, R85). x1 counts as the most recently used of them (log entry 99). -/
def startSeq (entry : Word) (vals : List Word) (idle : Bool) : Seq :=
  { Seq.reset with
    pc := entry
    x := Vector.ofFn (fun i => if i.val = 0 then 0 else vals.getD (i.val - 1) 0)
    live := 0x1FE
    dirty := 0x1FE
    status := if idle then .idle else .running
    rc := (List.range 8).map (fun i => BitVec.ofNat 5 (i + 1)) }

/-- The lowest free context number of a cluster (R358). -/
def freeCtx (s : State) (cluster : Nat) : Option Nat :=
  ((List.range 1024).map (fun i => 1024 * cluster + i)).find? (fun k => (tabGet s.ctxs k).isNone)

/-- The context of a task's next iteration, numbered `key`, with a slice group. -/
def newCtx (s : State) (id : Nat) (t : Task) (slot key first : Nat) : Ctx :=
  let r := t.rcd
  let vals := walk r t.dispatched ++ [BitVec.ofNat 64 t.dispatched, r.args]
  let c : Ctx :=
    { Ctx.reset with
      part := t.part, core := coreOfSlot slot, task := id, gang := Config.gangNumber id, prio := t.prio,
      iter := t.dispatched, cblk := newBlock key, place := .inSlot slot, lastSlot := slot, since := s.now,
      a := startSeq r.aentry vals (r.aentry = 0), x := startSeq r.xentry vals false }
  if r.slices = 0 then c else giveSlices c first r.slices s.free

/-- The task counts a dispatch; its pool entry is free with the last one (R264). -/
def countDispatch (t : Task) : Task :=
  { t with dispatched := t.dispatched + 1
           pool := if t.dispatched + 1 = t.rcd.count then .released else t.pool }

/-- A task's next iteration starts in a slot, with its watchdog count at 0 (R363). -/
def startIteration (s : State) (id : Nat) (t : Task) (slot first : Nat) : State :=
  match freeCtx s t.cluster with
  | none => s
  | some key =>
    let c := newCtx s id t slot key first
    let s1 := blockWrite (setCtx { s with free := s.free + 1 } key c) t.part c.core (c.cblk + 0x10) (liveBytes c)
    let s2 := modSlot s1 slot (fun l => { l with ctx := some key })
    wdogReset (setTask s2 id (countDispatch t)) slot

/-- The partition is configured and its halt line is down. -/
def partRuns (s : State) (p : Nat) : Bool := (partAt s p).configured && !(partAt s p).line

/-- The partition a slot's cluster belongs to. -/
def partOfCluster (s : State) (c : Nat) : Option Nat :=
  (s.parts.find? (fun e => e.2.configured && e.2.clus.getLsbD c)).map Prod.fst

end Sys2Proof.Machine
end

