-- ==== Sys2Proof/Machine/Streams.lean ====
section
/-!
DEFINITION. Stream bindings (R255 to R259), the register-cache fill (R84), and `yield`, `done` and `post` (R262 to R266).
-/

namespace Sys2Proof.Machine

/-! ### sbind and sfree (R255, R258) -/

def qIndex : Spec → BitVec 2
  | .q i => i
  | _ => 0

def sbind (s : State) (dir : Bool) (z : BitVec 3) (sx : Bool) (d a b cc : Spec) : Out :=
  finish s (do
    let i := qIndex d
    let c := curCtx s
    let (s1, v) ← gate s [opD .qName d, opA .ssrc a, opB .ssrc b, opC .ssrc cc]
    need (!(bindOf c i).bound && (qOf c i).isEmpty) (illegalOperand s 1)
    need (decide (z.toNat < 4) && !(sx && (z = 3 || dir))) (illegalOperand s 5)
    let base := valAt v 1
    let stride := (valAt v 2).toInt
    let n := (valAt v 3).toNat
    need (decide (n < 2 ^ 32) && decide (-8388608 ≤ stride) && decide (stride ≤ 8388607)) (illegalOperand s 6)
    let w := 2 ^ z.toNat
    need (base.toNat % w = 0 && (valAt v 2).toNat % w = 0) (misaligned base 0)
    if n = 0 then pure (retire s1)
    else
      let bind : Binding := ⟨base, BitVec.ofNat 32 n, BitVec.ofInt 24 stride, z, sx, dir, true, s.cur.side⟩
      pure (retire (modCur s1 (fun c => setBind c i bind))))

def execSbindLd (z : BitVec 3) (sx : Bool) (d a b cc : Spec) (s : State) : Out := sbind s false z sx d a b cc
def execSbindSt (z : BitVec 3) (sx : Bool) (d a b cc : Spec) (s : State) : Out := sbind s true z sx d a b cc

/-- Stores of a queue's store stream that have not performed. -/
def streamWts (s : State) (key : Nat) (c : Ctx) (q : Nat) : Bool :=
  s.wts.any (fun e => e.2.ctx = key && e.2.task = c.task && e.2.iter = c.iter && e.2.strm = some q)

def execSfree (d : Spec) (s : State) : Out :=
  finish s (do
    let i := qIndex d
    let (s1, _) ← gate s [opD .qName d]
    let c := curCtx s
    let b := bindOf c i
    if !b.bound then pure (retire s1)
    else if b.dir then do
      need (streamCount (qOf c i) = 0 && !streamWts s (curKey s) c i.toNat) (stallIn s .none)
      pure (retire (modCur s1 (fun c => setBind c i Binding.unbound)))
    else
      let who : Asker := .stream (curKey s) i.toNat
      pure (retire (modCur (forget s1 (fun w => w = who)) (fun c =>
        setBind (setQ c i ((qOf c i).filter (fun e => !e.stream))) i Binding.unbound))))

/-! ### Stream elements (R256, R257) -/

/-- An element of a load stream read at its address; `s` is the state as the owner sees it. -/
def readElement (s : State) (i : BitVec 2) (va : Word) : Res (State × Word) := do
  let b := bindOf (curCtx s) i
  let n := 2 ^ b.z.toNat
  elementFault s i va
  let (s1, h) ← access s va 0 needR
  let (s2, bs) ← loadBytes s1 h va 0 n false
  let v : Word := BitVec.ofNat 64 (leNat bs)
  pure (dropAnswers s2, if b.sx then signExt n v else v)

/-- The first stale element of a queue takes the value read again. -/
def renewElement (v : Word) : List QEnt → List QEnt
  | [] => []
  | e :: r => if e.stale then { e with val := v, stale := false } :: r else e :: renewElement v r

/-- The next element enters the queue; the binding ends with the last one (R256). -/
def pushElement (c : Ctx) (i : BitVec 2) (v va : Word) (id : Nat) : Ctx :=
  let b := bindOf c i
  let l := qOf c i ++ [⟨v, true, id, 0, 0, va, 0, false, false⟩]
  setBind (setQ c i l) i { b with bound := decide (streamCount l < b.remain.toNat) }

/-- A load stream reads an element again that an acquire made stale, or its next one and pushes it. -/
def fillElement (s : State) (i : BitVec 2) : Res State :=
  match (qOf (curCtx s) i).find? QEnt.stale with
  | some e => do
    let (s1, v) ← readElement s i e.va
    pure (modCur s1 (fun c => setQ c i (renewElement v (qOf c i))))
  | none => do
    let va := streamAddr (bindOf (curCtx s) i) (streamCount (qOf (curCtx s) i))
    let (s1, v) ← readElement s i va
    pure (modCur s1 (fun c => pushElement c i v va s.ids))

/-- A load stream has an element to read: one to read again, or its next one and room for it. -/
def fillDue (c : Ctx) (i : BitVec 2) : Bool :=
  (qOf c i).any QEnt.stale || (loadBound c i && decide ((qOf c i).length < 32))

/-- A load stream's read goes on waiting, in `t`: for its page walk, which is then in flight, or for its data (R341). -/
def noteWalk (s t : State) (va : Word) : State :=
  match access s va 0 needR with
  | .error (.wait _) => beginWalk t (curAsker s)
  | _ => endWalk t (curAsker s)

/-- The read of a load stream, whose walk began at number `since` if it has begun, may not issue: by a fence of the owner, a store
stream of it or its accesses in flight (R178, R206, R257, R341). -/
def fillHeld (s : State) (since : Option Nat) : Bool :=
  fenceHolds s (curKey s) s.cur.side (curCore s) .s since ||
    streamStores (curCtx s) s.cur.side (since.getD s.ids) || decide (4096 ≤ outstanding s (curKey s) s.cur.side .s)

/-- The address a load stream reads next. -/
def fillAddr (c : Ctx) (i : BitVec 2) : Word :=
  match (qOf c i).find? QEnt.stale with
  | some e => e.va
  | none => streamAddr (bindOf c i) (streamCount (qOf c i))

/-- LOAD_STREAM_FILL (R256): an element whose read would fault is not pushed. -/
def execLoadStreamFill (slot q : Nat) (s : State) : Out :=
  .next (match (slotAt s slot).ctx with
    | none => s
    | some key =>
      let c := ctxAt s key
      let i := BitVec.ofNat 2 q
      if decide (4 ≤ q) || !fillDue c i || !partRuns s c.part then s
      else
        let t := atSlot (leaveQueues s (fun w => w = .stream key q)) slot (bindOf c i).own
        let s1 := { t with cur := { t.cur with strm := some q } }
        let who : Asker := .stream key q
        if fillHeld s1 (walkSince s who) then s
        else
          match fillElement s1 i with
          | .ok u => { endWalk u who with cur := s.cur }
          | .error (.stall u) => { u with cur := s.cur }
          | .error (.wait g) => { noteWalk s1 (g s1) (fillAddr c i) with cur := s.cur }
          | .error _ => endWalk s who)

/-- The store of one pushed element (R257), numbered as its push was. -/
def issueElement (s : State) (key q : Nat) (c : Ctx) (b : Binding) (e : QEnt) : State :=
  let bytes := leBytes (2 ^ b.z.toNat) e.val.toNat
  let slot := match c.place with | .inSlot n => n | _ => c.lastSlot
  let wt : Wt :=
    { kind := .store, ctx := key, task := c.task, iter := c.iter, slot := slot, side := b.own, core := c.core,
      part := c.part, cls := .s, cmd := none, pa := e.pa, bytes := bytes,
      policy := if e.own then .update else leafWP e.leaf,
      l1 := !e.own && decide (e.pa < deviceEnd) && decide (leafCL e.leaf = 0), pc := e.pc, va := e.va, elem := 0,
      phase := .toHome, strm := some q,
      alloc := if !e.own && decide (e.pa < deviceEnd) && decide (leafCL e.leaf ≠ 2) then
          some (if leafWP e.leaf = .stream then 0 else leafEP e.leaf, leafCMP e.leaf) else none,
      own := e.own, op := e.id }
  let s1 := modCtx s key (fun c => setSeq c b.own
    { seqOf c b.own with ahead := (seqOf c b.own).ahead.filter (fun r => !aheadOver e.pa bytes.length r)
                         late := (seqOf c b.own).late.filter (fun r => !lateOver e.pa bytes.length r) })
  let sent : State := { s1 with wts := tabPut s1.wts e.id wt }
  if e.own then sent
  else
    match window s c.core e.pa with
    | .scratch pa => homeWrite s1 pa bytes
    | .device pa =>
      (match disjTakes (atSlot s slot b.own) (.device pa) .s bytes.length with
        | some p => disjStore s1 c.core pa p bytes
        | none => touchLine sent c.core (lineOf pa))
    | _ => sent

/-- The oldest element leaves a store stream; the binding ends when its last one has been written, and pops and `sfree` take it
as bound until then (log entry 91). -/
def dropElement (c : Ctx) (i : BitVec 2) : Ctx :=
  let l := (qOf c i).drop 1
  let b := bindOf c i
  setBind (setQ c i l) i (if b.remain = 0 && streamCount l = 0 then Binding.unbound else b)

/-- STORE_STREAM_WRITE (R257). -/
def execStoreStreamWrite (slot q : Nat) (s : State) : Out :=
  .next (match (slotAt s slot).ctx with
    | none => s
    | some key =>
      let c := ctxAt s key
      let i := BitVec.ofNat 2 q
      let b := bindOf c i
      match qOf c i with
      | [] => s
      | e :: _ =>
        if decide (4 ≤ q) || !(b.bound && b.dir && e.stream) || (partAt s c.part).halted then s
        else boundaryOf (modCtx (issueElement s key q c b e) key (fun c => dropElement c i)) key)

/-- What a swap makes of a context's load streams (R258): what they have read ahead goes, and they read it again after the
resume, those too that had pushed their last element. -/
def rewindStreams (c : Ctx) : Ctx :=
  [0, 1, 2, 3].foldl (fun c (i : Nat) =>
    let j := BitVec.ofNat 2 i
    let b := bindOf c j
    if b.dir then c
    else setBind (setQ c j ((qOf c j).filter (fun e => !e.stream))) j { b with bound := decide (b.remain ≠ 0) }) c

/-- A register arrives in the register cache with its value. -/
def fillReg (q : Seq) (i : BitVec 5) (v : Word) : Seq :=
  rcTouch (if i = 0 then q else { q with x := q.x.set i.toNat v i.isLt }) i

/-- REGISTER_CACHE_FILL (R84): the register arrives from the context block, through the L1 of the core (R86), and the hart issues
again. -/
def execRegisterCacheFill (slot : Nat) (s : State) : Out :=
  .next (match (slotAt s slot).ctx, (slotAt s slot).fill with
    | some key, some (sd, i) =>
      let a := ctxBlock s key + xOffset sd i
      let core := (ctxAt s key).core
      let r := readyRange false (ctxAt s key).part core false a 8 (s, true)
      if !r.2 then r.1
      else
        let s1 := blockLine core false r.1 (lineOf a)
        let s2 := modCtx s1 key (fun c => setSeq c sd (fillReg (seqOf c sd) i (memWord s1.mem a)))
        blockError (writeEvicted (modSlot s2 slot (fun l => { l with fill := none })) key sd) key sd [(a, 8)]
    | _, _ => s)

/-! ### yield (R266) -/

/-- A sequencer is ready to issue. -/
def seqReady (s : State) (slot : Nat) (sd : Side) : Bool :=
  let l := slotAt s slot
  match l.ctx with
  | none => false
  | some key => decide ((seqOf (ctxAt s key) sd).status = .running) && l.fill.isNone

/-- The other sequencers of the core that are ready. -/
def readyOthers (s : State) : List (Nat × Side) :=
  let n := 2 * curCore s
  [(n, Side.a), (n, .x), (n + 1, .a), (n + 1, .x)].filter (fun e =>
    decide (e ≠ (s.cur.slot, s.cur.side)) && seqReady s e.1 e.2)

/-- A sequencer of a slot has had an issue slot: nobody of its core owes it one any more. -/
def hadSlot (s : State) (slot : Nat) (sd : Side) : State :=
  let drop (q : Seq) : Seq :=
    match q.status with
    | .waiting (.yield owed) => { q with status := .waiting (.yield (owed.filter (fun e => e ≠ (slot, sd)))) }
    | _ => q
  { s with ctxs := s.ctxs.map (fun e => (e.1, { e.2 with a := drop e.2.a, x := drop e.2.x })) }

/-- Nothing is staged in a mirror bank, or on its way there: no work has been given its slot. -/
def Mirror.wantsNothing : Mirror → Bool
  | .staging _ | .staged _ => false
  | _ => true

/-- A context of a core is on its way out and can go on: it is runnable again at once, though its block does not hold it yet
(R266, R364). -/
def leavingRunnable (s : State) (core : Nat) : Bool :=
  s.ctxs.any (fun e => e.2.core = core &&
    (match e.2.place with | .mirror n => decide ((slotAt s n).mirror = .spilling e.1) | _ => false) &&
    (seqRunnable s e.1 .a e.2.a || seqRunnable s e.1 .x e.2.x))

/-- `yield`: no work wants the slot, and every other ready sequencer of the core has had its issue slot. -/
def execYield (s : State) : Out :=
  finish s (match (curSeq s).status with
    | .waiting (.satisfied _) => pure (retire s)
    | .waiting (.yield owed) =>
      if (pickWork s s.cur.slot (some (curKey s))).isNone && (slotAt s s.cur.slot).mirror.wantsNothing &&
          !leavingRunnable s (curCore s) && !owed.any (fun e => seqReady s e.1 e.2) then pure (retire s)
      else waitIn s (.yield owed)
    | _ => waitIn s (.yield (readyOthers s)))

/-! ### done (R259, R265) -/

/-- A queue's store stream writes every pushed element. -/
def drainStream (key : Nat) (s : State) (q : Nat) : State :=
  let c := ctxAt s key
  let i := BitVec.ofNat 2 q
  let b := bindOf c i
  if b.bound && b.dir then ((qOf c i).filter QEnt.stream).foldl (fun s e => issueElement s key q c b e) s else s

def ofCtx (key : Nat) : Asker → Bool
  | .seq k _ => k = key
  | .stream k _ => k = key
  | .fetch k _ => k = key
  | _ => false

/-- The iteration ends: store streams drain, its queues and bindings go, its context number, its slices and its slot are
free. -/
def endIteration (s : State) (key : Nat) : State :=
  let c := ctxAt s key
  let s1 := [0, 1, 2, 3].foldl (drainStream key) s
  let s2 := forget { s1 with ctxs := tabDel s1.ctxs key } (ofCtx key)
  let s3 := match c.place with
    | .inSlot n => modSlot s2 n (fun l => { l with ctx := none, request := none, fill := none })
    | _ => s2
  match taskAt s3 c.task with
  | some t => setTask s3 c.task { t with ended := t.ended + 1, cuts := tabPut t.cuts c.core s3.ids }
  | none => s3

/-- Both sequencers have executed `done`, or X has and A is idle. -/
def iterationOver (c : Ctx) : Bool := c.x.status = .done && (c.a.status = .done || c.a.status = .idle)

/-- The iteration ends where it is over; a context with a fault in its record stays for the halt and ends at the release
(R355, R362). -/
def endIfOver (s : State) (key : Nat) : State :=
  if iterationOver (ctxAt s key) && (ctxAt s key).fault.isNone then endIteration s key else s

/-- `done`; a matrix instruction of the hart in progress completes first (log entry 30). -/
def execDone (s : State) : Out :=
  finish s (do
    need (!s.mx.any (fun e => e.2.ctx = curKey s)) (stallIn s .none)
    let s1 := boundaryReset (modSeq (retire s) (fun q => { q with status := .done }))
    pure (endIfOver s1 (curKey s1)))

/-! ### post (R262 to R264) -/

/-- The completion counter's translation: needed only for a completion add. -/
def postCounter (s : State) (r : LnRec) : Res (State × Nat × WPolicy) :=
  if r.cinc = 0 then .ok (s, 0, .update)
  else do
    let (s1, h) ← access s r.caddr 0 needRW
    match h.tgt with
    | .scratch _ => .error (.fault (accessDenied r.caddr.toNat 0))
    | t => pure (s1, targetPa t, h.policy)

/-- `post`: `b` are the operands that name the cluster, `cl` the cluster they give. -/
def post (s : State) (d a : Spec) (b : List Opnd) (cl : List Word → Nat) : Out :=
  finish s (do
    let (s1, v) ← gate s ([opD .sdst d, opA .ssrc a] ++ b)
    let n := cl v
    need (n ≤ 15) (illegalOperand s 6)
    need ((partAt s (curPart s)).clus.getLsbD n) (faultWith 0x06 0 0 0)
    need (!diesCut s (dieOfSlot s.cur.slot) (dieOfCluster n)) (stallIn s .none)
    let va := valAt v 1
    need (va.toNat % 128 = 0) (misaligned va 0)
    mayAccess s .s
    afterLoad 2 va 128 s1 (fun (s2, bytes) => do
      let r := recOf (leNat bytes)
      let answer (t : State) (st : Word) : State := retire (writeDst (dropAnswers t) d st)
      if recMalformed r then pure (answer s2 2)
      else do
        let (s3, pa) ← postCounter s2 r
        match poolEntry s n r.prio with
        | none => pure (answer s3 1)
        | some e => pure (answer (acceptTask s3 (curPart s) n r va pa e (curCore s) s.ids) 0)))

def execPost (d a : Spec) (s : State) : Out := post s d a [] (fun _ => clusterOfSlot s.cur.slot)
def execPostC (d a b : Spec) (s : State) : Out := post s d a [opB .ssrc b] (fun v => (valAt v 2).toNat)

end Sys2Proof.Machine
end

