-- ==== Sys2Proof/Machine/Writes.lean ====
section
/-!
DEFINITION. Write-throughs, counter adds and completion adds at their homes (R235, R245, R246, R270, R338), and the waiters
of other packages (R339).
-/

namespace Sys2Proof.Machine

/-! ### The end of a task (R268 to R270) -/

/-- A completed task leaves the window and the pool, and releases its dependents. -/
def finishTask (s : State) (id : Nat) : State :=
  { s with tasks := (tabDel s.tasks id).map (fun e => (e.1, { e.2 with deps := e.2.deps.filter (fun d => d ≠ id) })) }

/-- A write-through has performed: its writer is acknowledged. With the last store of its streams a hart may stand at a
boundary (R274, R363). -/
def wtDone (s : State) (id : Nat) (w : Wt) : State :=
  let s1 := { s with wts := tabDel s.wts id, answers := s.answers.filter (fun e => e.2.ask.who ≠ .wt id) }
  match w.kind, w.strm with
  | .taskAdd _, _ => finishTask s1 w.task
  | _, some _ => boundaryOf s1 w.ctx
  | _, none => s1

def setWt (s : State) (id : Nat) (w : Wt) : State := { s with wts := tabPut s.wts id w }

/-! ### Faults found at the home (R159, R338, R361) -/

def wtFaultInfo (s : State) (id : Nat) (w : Wt) (f : FaultReq) (e : Bool) : FaultInfo :=
  { faultInfo s f w.side w.slot w.pc with e := e, cmd := some id }

/-- The fault is raised against the instruction, the command or the completion add it belongs to. An add or store whose
fault cannot be recorded, or belongs to no context, waits for the release. -/
def faultWt (s : State) (id : Nat) (w : Wt) (f : FaultReq) : State :=
  let cluster := clusterOfCore w.core
  let stopped := setWt s id { w with phase := .stopped }
  match w.kind, w.cmd with
  | .taskAdd _, _ => recordDetached stopped cluster w.part { wtFaultInfo s id w f true with slot := 0xFFF, sq := .a }
  | _, some c =>
    let s1 := { s with wts := s.wts.filter (fun e => e.2.cmd ≠ some c) }
    (match tabGet s1.cmds c with
      | some k => cmdFaults s1 c { k with stage := 0 } f
      | none => s1)
  | _, none =>
    match tabGet s.ctxs w.ctx with
    | some x =>
      if x.task = w.task && x.iter = w.iter then
        if x.fault.isNone then recordFault (wtDone s id w) w.ctx { wtFaultInfo s id w f false with cmd := none }
        else recordFault stopped w.ctx (wtFaultInfo s id w f false)
      else recordDetached stopped cluster w.part (wtFaultInfo s id w f true)
    | none => recordDetached stopped cluster w.part (wtFaultInfo s id w f true)

/-! ### Privatisation and Gathering (R245, R246) -/

/-- The write-throughs in succession, with a new one; only the last eight writes and the reads among them count. -/
def countWriters : List (Nat × BitVec 128) → List (Nat × BitVec 128)
  | [] => []
  | e :: r => if e.2 = 0 || decide (8 < (e :: r).countP (fun x => x.2 ≠ 0)) then countWriters r else e :: r

/-- The bytes a core wrote among them. -/
def writerMask (l : List (Nat × BitVec 128)) (core : Nat) : BitVec 128 :=
  l.foldl (fun m e => if e.1 = core then m ||| e.2 else m) 0

def writerCores (l : List (Nat × BitVec 128)) : List Nat := ((l.filter (fun e => e.2 ≠ 0)).map Prod.fst).dedup

/-- The conditions of R245. -/
def privatises (l : List (Nat × BitVec 128)) : Bool :=
  let cs := writerCores l
  l.countP (fun e => e.2 ≠ 0) = 8 && decide (2 ≤ cs.length) && decide (cs.length ≤ 16) &&
    cs.all (fun a => cs.all (fun b => a = b || writerMask l a &&& writerMask l b = 0)) &&
    l.all (fun e => cs.contains e.1)

/-- Every copy goes, with the notices of copies given up before, and each writing core's L1 gets a DISJ copy, at an eviction
priority. -/
def privatise (s : State) (line : Nat) (l : List (Nat × BitVec 128)) (ep : Nat) : State :=
  let s1 := dropCopies s line []
  let bytes := memRead s1.mem (128 * line) 128
  let cs := writerCores l
  let s2 := cs.foldl (fun s c => { s with partials := tabPut s.partials (partialKey c line) ⟨0, bytes, writerMask l c, 0⟩ }) s1
  let s3 := { s2 with notices := s2.notices.filter (fun n => n.2 ≠ line) }
  cs.foldl (fun s c => allocLine s c line ep false) (setDir s3 line { DirEntry.reset with st := .gathering, holders := cs })

/-- A store counts towards privatisation only from a scalar store to an L1+L2 page under update. -/
def countsForPrivate (w : Wt) : Bool := w.l1 && w.policy = .update && w.cmd.isNone && w.cls = .s && w.kind = .store

/-- A waiter on a counter of the line is registered: its evaluation reads the line after every write (R339). -/
def hasWaiter (s : State) (line : Nat) : Bool :=
  let on (q : Seq) : Bool := ((waitsOn s q).map (fun pa => decide (lineOf pa = line))).getD false
  s.waiters.any (fun w => lineOf w.pa = line) || s.ctxs.any (fun e => on e.2.a || on e.2.x)

/-- The priority at which caches allocate the line of a write. -/
def wtPrio (w : Wt) : Nat := (w.alloc.map Prod.fst).getD 0

/-- After a write made at its home: the count of write-throughs in succession goes on, whether the line is Shared or Uncached;
a Shared line may be privatised. A vector store, an engine's write, an add or a store under another policy starts the
count again, as a focus does (log entry 88). -/
def noteWriter (s : State) (line : Nat) (w : Wt) : State :=
  let e := dirAt s line
  if e.st ≠ .shared && e.st ≠ .uncached then s
  else
    let l := if countsForPrivate w && !hasWaiter s line then
        countWriters (e.writers ++ [(w.core, maskOf (w.pa % 128) w.bytes.length)]) else []
    if e.st = .shared && privatises l && !hostShares s line then privatise s line l (wtPrio w)
    else if e.writers.isEmpty && l.isEmpty then s
    else setDir s line { e with writers := l }

/-- A store to a Gathering line: the writer's copy takes it, or the line has to be focused (R246). -/
def gatherStore (s : State) (line : Nat) (w : Wt) : Option State :=
  let e := dirAt s line
  let m := maskOf (w.pa % 128) w.bytes.length
  let mine := tabGet s.partials (partialKey w.core line)
  let others := e.holders.filter (fun c => c ≠ w.core)
  let clash := others.any (fun c => match tabGet s.partials (partialKey c line) with
    | some p => p.touched &&& m ≠ 0
    | none => false)
  if !(w.cls = .s && w.cmd.isNone && w.kind = .store) || w.own || clash || s.notices.contains (w.core, line) then none
  else if e.holders.contains w.core then
    mine.map (fun p =>
      let q : Partial := { p with bytes := listSet p.bytes (w.pa % 128) w.bytes, touched := p.touched ||| m
                                  bad := p.bad &&& ~~~m }
      touchLine { s with partials := tabPut s.partials (partialKey w.core line) q } w.core line)
  else if e.holders.length < 16 then
    let b := listSet (memRead s.mem (128 * line) 128) (w.pa % 128) w.bytes
    let s1 := setDir { s with partials := tabPut s.partials (partialKey w.core line) ⟨0, b, m, 0⟩ } line
      { e with holders := e.holders ++ [w.core] }
    some (allocLine s1 w.core line (wtPrio w) false)
  else none

/-! ### At the home (R235, R238, R336, R338) -/

/-- The hart slot a focus counts in: none for a completion add. -/
def wtSlot (w : Wt) : Option Nat := match w.kind with | .taskAdd _ => none | _ => some w.slot

/-- The writer's own cache, whose copy a write leaves (R235): its L1, or the pool cache for a vector store; an engine and a
counter add have none. -/
def writerCache (w : Wt) : List Nat :=
  if w.cmd.isSome || !w.isStore || w.own then [] else if w.cls = .v then [poolCache w.core] else [w.core]

/-- A WRITE MADE AT ITS HOME: acknowledged, its bytes written, the waiters on them evaluated, the other copies updated or
invalidated. -/
def writeHome (s : State) (id : Nat) (w : Wt) (pa : Nat) (b : List Byte) : State :=
  let line := lineOf pa
  let s1 := useSlice (homeWrite (wtDone s id w) pa b) line (w.alloc.map Prod.fst) ((w.alloc.map Prod.snd).getD false)
  noteWriter (afterWrite s1 line w.policy (writerCache w)) line w

/-- The other copies of a line go, where its page's policy is not update; the directory keeps its entry for the line, as it
does at every counter operation (R235, R238, R336). -/
def dropOthers (s : State) (line : Nat) (policy : WPolicy) : State :=
  match (dirAt s line).st with
  | .shared => if policy = .update then s else setCopies s line []
  | _ => s

/-- A counter add at its home; the line's state stays (R238), its other copies are updated or invalidated (R336). -/
def homeAdd (s : State) (id : Nat) (w : Wt) (pa : Nat) (inc : Word) : State :=
  let old := memWord s.mem pa
  if poisoned s pa then faultWt s id w (uncorrectable w.va.toNat (lineOf pa) 0)
  else if 2 ^ 64 ≤ old.toNat + inc.toNat then faultWt s id w ⟨0x0B, w.va, BitVec.allOnes 64, 0, 0, none⟩
  else
    let s1 := useSlice (homeWrite (wtDone s id w) pa (leBytes 8 (old + inc).toNat)) (lineOf pa) none false
    noteWriter (dropOthers s1 (lineOf pa) w.policy) (lineOf pa) w

/-- A write at the home of a device line (R235). Where the host shares the line it is held, and the line with it, until the
host has given up its copy (R221, R249). -/
def atDeviceHome (s : State) (id : Nat) (w : Wt) (pa : Nat) : State :=
  let line := lineOf pa
  match (if (dirAt s line).st = .gathering then gatherStore s line w else none) with
  | some t => wtDone t id w
  | none =>
    if hostShares s line && !hostOwns s line && !lineBusy s line then
      askInval (setWt s id { w with phase := .hostCopy }) (.wt id) line w.part
    else
      match homeHolds s (.wt id) w.part w.core line true with
      | some g => g s
      | none =>
        let s1 := homeLine s line (wtSlot w)
        match w.kind with
        | .store => writeHome s1 id w pa w.bytes
        | .half v _ => writeHome s1 id w pa [lowHalf (memByte s1.mem pa) v]
        | .cadd inc .. => homeAdd s1 id w pa inc
        | .taskAdd inc => homeAdd s1 id w pa inc

/-- The write of a line under a mask, as a payload. -/
def maskedLine (pa : Nat) (b : List Byte) : List Byte :=
  leBytes 16 (maskOf (pa % 128) b.length).toNat ++ listSet (List.replicate 128 0) (pa % 128) b

/-- The other device copies of a host line are invalidated, and the line becomes the most recently used of the directory
(R248). The writer's own copy stays as it is until the write has performed (R221). -/
def writeHostCopies (s : State) (w : Wt) (line : Nat) : State :=
  let rest := s.hostdir.filter (fun e => e.1 ≠ line)
  let kept : List (Nat × HostLine) :=
    match hostLineAt s line with
    | some h =>
      let l := h.holders.filter (fun c => (writerCache w).contains c)
      if l.isEmpty then []
      else [(line, { h with holders := l, sharers := h.sharers.filter (fun c => l.contains c) })]
    | none => []
  keepNoData { s with hostdir := rest ++ kept } line

/-- A store to a host line has performed: the writer's own copy takes its bytes (R248). -/
def hostStored (s : State) (w : Wt) (pa : Nat) : State :=
  { s with hostdir := s.hostdir.map (fun e =>
      if e.1 = lineOf pa && e.2.holders.any (fun c => (writerCache w).contains c) then
        (e.1, { e.2 with bytes := listSet e.2.bytes (pa % 128) w.bytes })
      else e) }

/-- A message that carries the write to its home outside the package, once. -/
def sendWt (s : State) (id : Nat) (w : Wt) (code addr extra link : Nat) (payload : List Byte) : State :=
  let tag := s.ids
  setWt (sendAsk s (.wt id) code addr extra link w.part payload) id { w with phase := .answer tag }

def addPayload (inc : Word) : List Byte :=
  leBytes 1 (atomicCode .counterAdd) ++ leBytes 1 8 ++ leBytes 8 inc.toNat ++ leBytes 8 0

/-- The bytes of a byte's word with its low half set: what the atomic of a half-byte store puts there. -/
def halfWord (pa : Nat) (v : Byte) (w : Word) : Word :=
  let b := leBytes 8 w.toNat
  BitVec.ofNat 64 (leNat (listSet b (pa % 8) [lowHalf (b.getD (pa % 8) 0) v]))

/-- The compare-and-swap that makes a half-byte store outside the package. -/
def halfPayload (pa : Nat) (v : Byte) (guess : Word) : List Byte :=
  leBytes 1 (atomicCode .cas) ++ leBytes 1 8 ++ leBytes 8 (halfWord pa v guess).toNat ++ leBytes 8 guess.toNat

/-- The write may still have to be made, or made again: it is no WrLine or add on a link, whose frames keep their order. -/
def Wt.unsettled (w : Wt) : Bool :=
  match w.phase, w.kind with
  | .answer _, .half .. => true
  | .answer _, _ => false
  | _, _ => true

/-- An earlier write of the core to one of the bytes, or of the same store stream, has to come first (R219, R257). An add that
predecessors of another sequencer hold is not waited for (R230). -/
def wtBehind (s : State) (id : Nat) (w : Wt) : Bool :=
  s.wts.any (fun e => decide (e.1 < id) && e.2.unsettled && !othersHeld s w.ctx w.side e.2 &&
    ((e.2.core = w.core && e.2.cmd = w.cmd && e.2.covers w.pa w.size) ||
      (e.2.strm.isSome && e.2.strm = w.strm && e.2.ctx = w.ctx && e.2.task = w.task && e.2.iter = w.iter)))

/-- The scheduler performs no completion add while the partition halts (Table 17.3). -/
def addStops (s : State) (w : Wt) : Bool :=
  match w.kind with
  | .taskAdd _ => (partAt s w.part).line
  | _ => false

/-- A write to a host line waits while the package owns the line for an `amo`, whose WbOwn carries the whole line (R182). -/
def ownedAway (s : State) (w : Wt) : Bool :=
  match window s w.core w.pa with
  | .host pa => ownsHostLine s (lineOf pa)
  | _ => false

/-- A write-through at its home. -/
def performWt (s : State) (id : Nat) : State :=
  match tabGet s.wts id with
  | none => s
  | some w =>
    if w.phase ≠ .toHome || wtBehind s id w || addHeld s w || addStops s w || ownedAway s w ||
        cutOff s w.core (window s w.core w.pa) then s
    else
      match window s w.core w.pa with
      | .device pa => atDeviceHome s id w pa
      | .own pa => atDeviceHome s id w pa
      | .host pa =>
        if hostCopiesCut s (lineOf pa) then s
        else
        (match w.kind with
          | .store => sendWt (writeHostCopies s w (lineOf pa)) id w 0x04 (128 * lineOf pa) 0 0 (maskedLine pa w.bytes)
          | .half v guess =>
            sendWt (dropHostLine s (lineOf pa)) id w 0x0A (pa / 8 * 8) (atomicCode .cas) 0 (halfPayload pa v guess)
          | .cadd inc .. => sendWt (dropHostLine s (lineOf pa)) id w 0x0A pa (atomicCode .counterAdd) 0 (addPayload inc)
          | .taskAdd inc => sendWt (dropHostLine s (lineOf pa)) id w 0x0A pa (atomicCode .counterAdd) 0 (addPayload inc))
      | .fabric node _ =>
        (match w.kind with
          | .store => sendWt s id w 0x02 w.pa w.bytes.length (routeOf s node) (maskedLine w.pa w.bytes)
          | .half v guess =>
            sendWt s id w 0x03 (w.pa / 8 * 8) (atomicCode .cas) (routeOf s node) (halfPayload w.pa v guess)
          | .cadd inc .. => sendWt s id w 0x04 w.pa 0 (routeOf s node) (leBytes 8 inc.toNat)
          | .taskAdd inc => sendWt s id w 0x04 w.pa 0 (routeOf s node) (leBytes 8 inc.toNat))
      | .scratch pa => wtDone (homeWrite s pa w.bytes) id w
      | .nothing => wtDone s id w

/-- WRITE_THROUGH (R235): a write reaches its home. -/
def execWriteThrough (id : Nat) (s : State) : Out :=
  .next (wakeWaiters (performWt (leaveQueues s (fun w => w = .wt id)) id))

/-- A write outside the package has been made, `old` being the value it met where the answer carries one: a half-byte store
that met another word than it guessed is made again on that; an add on the host's memory is a counter operation of the
device (R339). -/
def madeWt (s : State) (id : Nat) (w : Wt) (old : Option Word) : State :=
  let added (inc : Word) : State :=
    match old, window s w.core w.pa with
    | some v, .host _ => wakeHost (wtDone s id w) (.wt id) w.pa (v + inc)
    | _, _ => wtDone s id w
  match w.kind with
  | .half v guess =>
    (match old with
      | some o => if o = guess then wtDone s id w else setWt s id { w with kind := .half v o, phase := .toHome }
      | none => wtDone s id w)
  | .cadd inc .. => added inc
  | .taskAdd inc => added inc
  | .store =>
    match window s w.core w.pa with
    | .host pa => hostStored (wtDone s id w) w pa
    | _ => wtDone s id w

/-- The answer that a write outside the package waits for. A refused store is ACCESS_DENIED; a refused add is
COUNTER_OVERRUN where the sum overflows (log entry 31). `old` is the value that an answer carries. -/
def answerWt (s : State) (id : Nat) (denied : Bool) (old : Option Word) : State :=
  match tabGet s.wts id with
  | none => s
  | some w =>
    let full : FaultReq := ⟨0x0B, w.va, BitVec.allOnes 64, 0, 0, none⟩
    let refused (inc : Word) : FaultReq :=
      match old with
      | none => full
      | some v => if 2 ^ 64 ≤ v.toNat + inc.toNat then full else accessDenied w.va.toNat 0
    if !denied then madeWt s id w old
    else
      match w.kind with
      | .store => faultWt s id w (accessDenied w.va.toNat w.elem)
      | .half .. => faultWt s id w (accessDenied w.va.toNat w.elem)
      | .cadd inc .. => faultWt s id w (refused inc)
      | .taskAdd inc => faultWt s id w (refused inc)

end Sys2Proof.Machine
end

