-- ==== Sys2Proof/Machine/Transport.lean ====
section
/-!
DEFINITION. What reaches a line's home as a step of its own (Table 11.4), the messages of the Azver host transport (R247 to
R250) and of the Bolvia fabric transport (R376), and the transport's own events (R278, R375, R377).
-/

namespace Sys2Proof.Machine

/-! ### The home's transitions (R236, R238, R241, R243) -/

/-- The partition a line's granule belongs to, for the home's own messages. -/
def partOfLine (s : State) (line : Nat) : Nat := (partOfRow s (rowOf (128 * line))).getD 0

def isCache (c : Nat) : Bool := c < 1664

/-- The home's own wait for a request of an agent of a core. One that a wave holds is kept by the turn that brings it
(R164). -/
def homeReady (s : State) (core line : Nat) (write : Bool) : Option (State → State) :=
  if waveHolds s line write then some (fun t => t) else homeHolds s .home (partOfLine s line) core line write

/-- A core that a cache belongs to. -/
def coreOfCache (cache : Nat) : Nat := if cache < 1536 then cache else 12 * (cache - 1536)

/-- READ_SHARED: the home supplies a line to a cache, which makes room for it, and records the sharer. -/
def execReadShared (cache line : Nat) (s : State) : Out :=
  .next (if !isCache cache || !deviceLine line then s
    else
      match homeReady s (coreOfCache cache) line false with
      | some g => g s
      | none => recordCopy (allocLine (noteRead (servedLine s line none) line cache) cache line 0 false) line cache)

/-- READ_OWN: an engine command takes a line of its destination that its issue left to others; copies go and the owner is
recorded. An `amo` executes within one turn, its read-own with it, so none is on its way between turns (log entry 2). -/
def execReadOwn (line : Nat) (owner : Owner) (s : State) : Out :=
  .next (match owner with
    | .engine n =>
      (match tabGet s.cmds n with
        | some c =>
          if !c.lines.contains line || c.faulted || c.stage = 2 then s
          else
            match homeReady s c.issuer.core line true with
            | some g => g s
            | none => ownLine n c.issuer.slot s line
        | none => s)
    | _ => s)

/-- FACET_REQUEST: a grant, or the focus that R242 asks for. -/
def execFacetRequest (core line : Nat) (tag : BitVec 4) (s : State) : Out :=
  .next (if 1536 ≤ core || !deviceLine line || tag = 0 || tag = 14 || tag = 15 then s
    else
      match homeReady s core line true with
      | some g => g s
      | none =>
        match facetGrant (deliverNotice s core line) core line tag none with
        | .granted t => allocLine t core line 0 false
        | .focused t => t
        | .hostFirst => askHost s .home line (partOfLine s line))

/-- PARTIAL_PARK: an evicted partial reaches the home and is parked. -/
def execPartialPark (core line : Nat) (s : State) : Out :=
  .next (match (dirAt s line).st with
    | .faceted _ => if noticeCut s core line then s else deliverNotice s core line
    | _ => s)

/-- EVICTION_NOTICE: the home hears of a copy that a cache of the package has given up. -/
def execEvictionNotice (cache line : Nat) (s : State) : Out :=
  .next (if isFaceted (dirAt s line) || noticeCut s cache line then s else deliverNotice s cache line)

/-- DISJ_COPY_EVICTION: a Gathering holder's bytes go into the home copy, once no wave holds them back (R164). -/
def execDisjCopyEviction (core line : Nat) (s : State) : Out :=
  .next (if decide ((dirAt s line).st = .gathering) && !noticeCut s core line && !waveHolds s line true then
      deliverNotice s core line
    else s)

/-! ### Requests of the host to device lines (R247, R249, R250) -/

def answerHost (s : State) (req : HostReq) (code status : Nat) (ps : Bool) (payload : List Byte) : State :=
  sendMsg s (hostMsg code req.part.toNat req.tag req.addr status ps payload)

/-- The check of R160 and R161 against the partition that the request names. -/
def hostAllowed (s : State) (req : HostReq) : Bool :=
  (partAt s req.part.toNat).configured && decide (req.addr < deviceEnd) &&
    holdsGranule (partAt s req.part.toNat) req.addr && !inBankRegion s req.addr

/-- What a request of the host waits for at a line's home: a link on its way (R8, R378), a transition (R238) or a wave
(R164). -/
def hostHolds (s : State) (line : Nat) (write : Bool) : Bool :=
  lineCut s (portCore 0) line || copyCut s line write || lineBusy s line || waveHolds s line write

/-- A request of the host served at its line's home once the line is ready, or refused with Cmp. -/
def hostServes (s : State) (req : HostReq) (write : Bool) (f : State → State) : State :=
  if !hostAllowed s req then answerHost s req 0x0C 1 false []
  else if hostHolds s (lineOf req.addr) write then s
  else wakeWaiters (f (servedLine s (lineOf req.addr) none))

/-- The 128 bytes of the request's line, with its poison bit. -/
def answerData (s : State) (req : HostReq) : State :=
  answerHost s req 0x07 0 (poisoned s req.addr) (memRead s.mem (128 * lineOf req.addr) 128)

def execRdShared (req : HostReq) (s : State) : Out :=
  .next (hostServes s req false (fun t =>
    let line := lineOf req.addr
    let t1 := if hostOwns t line then setDir t line { dirAt t line with st := .uncached } else t
    answerData (noteRead (setDir t1 line (addSharer (dirAt t1 line) hostCache)) line hostCache) req))

/-- RDOWN: every device copy and the host's own go first (R249). -/
def execRdOwn (req : HostReq) (s : State) : Out :=
  .next (hostServes s req false (fun t =>
    let line := lineOf req.addr
    if hostShares t line then askInval t .home line req.part.toNat
    else
      let t1 := dropCopies t line []
      answerData (setDir t1 line { DirEntry.reset with st := .owned .host }) req))

def execRdCur (req : HostReq) (s : State) : Out :=
  .next (hostServes s req false (fun t => answerData (noteRead t (lineOf req.addr) hostCache) req))

/-- Bytes of a line under a mask. -/
def maskBytes (old : List Byte) (mask : BitVec 128) (data : BitVec 1024) : List Byte :=
  (List.range 128).map (fun i =>
    if mask.getLsbD i then BitVec.ofNat 8 (bitsOf data.toNat (8 * i) 8) else old.getD i 0)

/-- A line was written from outside: where the write takes part in coherence, its device copies go (Table 11.6); a fabric
access and a counter operation leave them (R238). The count of R245 starts again. -/
def outsideWrote (s : State) (line : Nat) (coherent : Bool) : State :=
  let s1 := if coherent && decide ((dirAt s line).st = .shared) then dropCopies s line [] else s
  if (dirAt s1 line).writers.isEmpty then s1 else setDir s1 line { dirAt s1 line with writers := [] }

/-- A write under a mask from outside; a whole line clears its poison (R165). -/
def writeMasked (s : State) (line : Nat) (mask : BitVec 128) (data : BitVec 1024) (coherent : Bool) : State :=
  let b := maskBytes (memRead s.mem (128 * line) 128) mask data
  outsideWrote (if mask = BitVec.allOnes 128 then homeWrite s (128 * line) b
    else wakeLocal (writeMem s (128 * line) b) (128 * line) 128) line coherent

def execWrLine (req : HostReq) (mask : BitVec 128) (data : BitVec 1024) (s : State) : Out :=
  .next (hostServes s req true (fun t =>
    answerHost (writeMasked t (lineOf req.addr) mask data true) req 0x0C 0 false []))

/-- An atomic from outside at its home: the new state and the old value, or nothing where it is refused (R338). One of sixteen
bytes is a compare-and-swap (log entry 24). -/
def outsideAtomic (s : State) (pa : Nat) (op : AtomicOp) (n : Nat) (b c : BitVec 128) (coherent : Bool) :
    Option (State × BitVec 128) :=
  let old := BitVec.ofNat 128 (memNat s.mem pa n)
  let new : Option (BitVec 128) :=
    if n = 16 then (if old = c then some b else none)
    else (amoOp op n (old.truncate 64) (b.truncate 64) (c.truncate 64)).map (fun w => w.zeroExtend 128)
  if pa % n ≠ 0 || 16 < n || (n = 16 && op ≠ .cas) || (op = .fadd && n = 8) ||
      (op = .counterAdd && (n = 4 || new.isNone)) then none
  else
    match new with
    | none => some (noteRead s (lineOf pa) hostCache, old)
    | some v =>
      some (outsideWrote (homeWrite s pa (leBytes n v.toNat)) (lineOf pa) (coherent && op ≠ .counterAdd), old)

def atomicBytes (sz : BitVec 2) : Nat := 4 * 2 ^ sz.toNat

/-- The old value as an answer carries it: eight bytes, or sixteen of an atomic of sixteen. -/
def atomicAnswer (sz : BitVec 2) (old : BitVec 128) : List Byte := leBytes (max 8 (atomicBytes sz)) old.toNat

def execAtomic (req : HostReq) (op : AtomicOp) (sz : BitVec 2) (b cc : BitVec 128) (s : State) : Out :=
  .next (hostServes s req true (fun t =>
    if poisoned t req.addr then answerHost t req 0x0B 0 true (atomicAnswer sz 0)
    else
      match outsideAtomic t req.addr op (atomicBytes sz) b cc true with
      | none => answerHost t req 0x0C 1 false []
      | some (t1, old) => answerHost t1 req 0x0B 0 false (atomicAnswer sz old)))

/-! ### Messages of the host as home agent and as holder (R247 to R249) -/

/-- INVAL: the device copies of a host line go, and InvAck answers, once no failed edge keeps the Inval from them. -/
def execInval (line : Nat) (s : State) : Out :=
  .next (if hostCopiesCut s line then s else sendMsg (dropHostLine s line) (linesOfMsg 0x06 0 0 (128 * line) 0 []))

def dropAsks (s : State) (code addr : Nat) : State :=
  { s with asks := s.asks.filter (fun e => !(e.2.code = code && e.2.addr = addr && e.2.link = 0)) }

/-- The host no longer shares a line. -/
def hostGaveUp (s : State) (line : Nat) : State :=
  let e := dirAt s line
  let sh := e.sharers.filter (fun c => c ≠ hostCache)
  let gone := e.st = .shared && sh.isEmpty && e.map.isNone
  setDir s line { e with sharers := sh, st := if gone then .uncached else e.st }

/-- INVACK: the host's copy is gone; the write that waits for it at the home is made. -/
def execInvAck (line : Nat) (s : State) : Out :=
  .next (if !hasAsk s (fun a => a.code = 0x05 && a.addr = 128 * line && a.link = 0) then s
    else
      let s1 := hostGaveUp (dropAsks s 0x05 (128 * line)) line
      wakeWaiters ((s1.wts.filter (fun w => lineOf w.2.pa = line && w.2.phase = .hostCopy)).foldl
        (fun t w => performWt (setWt t w.1 { w.2 with phase := .toHome }) w.1) s1))

/-- A cache of the package takes its copy of a host line at a priority, and the directory records it as R236 tracks
sharers; without a free entry among its 262,144 it gives up its least recently used line first (R248). -/
def addHostLine (s : State) (line cache prio : Nat) (bytes : List Byte) (ps : Bool) : State :=
  let old := (hostLineAt s line).getD ⟨bytes, ps, [], [], none⟩
  let r := trackSharer old.sharers old.map cache
  let s1 := allocLine s cache line prio false
  let rest := s1.hostdir.filter (fun e => e.1 ≠ line)
  let kept := if 262144 ≤ rest.length then rest.drop 1 else rest
  { s1 with hostdir := kept ++ [(line, ⟨bytes, ps, old.holders.filter (fun c => c ≠ cache) ++ [cache], r.1, r.2⟩)] }

def bytesOfLine (b : BitVec 1024) : List Byte := leBytes 128 b.toNat

/-- An answer is kept for who asked. -/
def keepAnswer (s : State) (tag : Nat) (a : Ask) (bytes : List Byte) (ps denied : Bool) : State :=
  { s with asks := tabDel s.asks tag, answers := tabPut s.answers tag ⟨a, bytes, ps, denied⟩ }

/-- DATA: line data for a read of a host line. A line that nobody waits for any more goes back. -/
def execData (tag : Nat) (bytes : BitVec 1024) (ps : Bool) (s : State) : Out :=
  .next (match tabGet s.asks tag with
    | none => s
    | some a =>
      if a.link ≠ 0 || !(a.code = 0x01 || a.code = 0x02 || a.code = 0x03) then s
      else
        let s1 : State :=
          match a.who with
          | .fill _ => { s with asks := tabDel s.asks tag }
          | .home =>
            let t := { s with asks := tabDel s.asks tag }
            if a.code = 0x02 then returnLine t 0 (lineOf a.addr) (bytesOfLine bytes) ps else t
          | _ => keepAnswer s tag a (bytesOfLine bytes) ps false
        if a.code = 0x01 then addHostLine s1 (lineOf a.addr) (a.extra % 4096) (a.extra / 4096) (bytesOfLine bytes) ps
        else s1)

/-- WBOWN: the host returns a line it owned. -/
def execWbOwn (line : Nat) (bytes : BitVec 1024) (s : State) : Out :=
  .next (if !hostOwns s line then s
    else if hostHolds s line true then s
    else
      let s1 := homeWrite (dropAsks s 0x09 (128 * line)) (128 * line) (bytesOfLine bytes)
      wakeWaiters (setDir s1 line { dirAt s1 line with st := .uncached }))

/-- RECALL: the package owns a host line only while an `amo` or the header access of a `kvapp` executes. The recall is held
until that completes and WbOwn returns the line, which answers it; a recall of a line that the package does not own finds
nothing to return (Tables 11.2 and 11.6). -/
def execRecall (line : Nat) (s : State) : Out :=
  .next (if ownsHostLine s line && !s.recalls.contains line then { s with recalls := s.recalls ++ [line] } else s)

/-- ATOMICRSP: the old value of an atomic or counter add executed at the host. -/
def execAtomicRsp (tag : Nat) (old : BitVec 128) (s : State) : Out :=
  .next (match tabGet s.asks tag with
    | none => s
    | some a =>
      if a.link ≠ 0 || a.code ≠ 0x0A then s
      else
        match a.who with
        | .wt id => answerWt { s with asks := tabDel s.asks tag } id false (some (old.truncate 64))
        | _ => keepAnswer s tag a (leBytes 16 old.toNat) false false)

/-- CMP: the completion of a WrLine, or of a refused request. -/
def execCmp (tag : Nat) (denied : Bool) (s : State) : Out :=
  .next (match tabGet s.asks tag with
    | none => s
    | some a =>
      if a.link ≠ 0 then s
      else
        match a.who with
        | .wt id =>
          if a.code = 0x04 || a.code = 0x0A then answerWt { s with asks := tabDel s.asks tag } id denied none else s
        | .fill _ => if denied then { s with asks := tabDel s.asks tag } else s
        | _ => if denied then keepAnswer s tag a [] false true else s)

/-- A frame discarded at a port, and counted. -/
def discardFrame (s : State) (link : Nat) : State :=
  if link < 9 then setLink s link { linkAt s link with discarded := (linkAt s link).discarded + 1 } else s

/-- RESERVED_CODE_FRAME: discarded and counted. -/
def execReservedCodeFrame (link : Nat) (s : State) : Out := .next (discardFrame s link)

/-- A received frame of a priority outside Table 18.5: discarded and counted (R374). -/
def strayFrame (s : State) (link priority : Nat) : State :=
  if priority = 3 || priority = 4 || priority = 6 || priority = 7 then s else discardFrame s link

/-! ### Requests of other packages (R159, R376) -/

def fabricOffset (req : BftReq) : Nat := req.addr % deviceEnd

def answerBft (s : State) (req : BftReq) (status : Nat) (ps : Bool) (payload : List Byte) : State :=
  sendBft s req.snode 0x06 req.part.toNat req.tag req.addr status ps payload

/-- A request served at the target package under R159 to R161, or refused. A write waits for the host's copy to go. -/
def fabricServes (s : State) (req : BftReq) (ok wr : Bool) (f : State → State) : State :=
  let pa := fabricOffset req
  let line := lineOf pa
  if !(partAt s req.part.toNat).configured || !deviceAllowed s req.part.toNat pa || !ok then answerBft s req 1 false []
  else if waveHolds s line wr then s
  else
    match homeHolds s .home req.part.toNat (portCore (routeOf s req.snode)) line wr with
    | some g => g s
    | none => wakeWaiters (f (servedLine s line none))

def execRd (req : BftReq) (len : Nat) (s : State) : Out :=
  .next (let pa := fabricOffset req
    fabricServes s req (decide (1 ≤ len) && decide (pa % 128 + len ≤ 128)) false (fun t =>
      answerBft (noteRead t (lineOf pa) hostCache) req 0 (poisoned t pa) (memRead t.mem pa len)))

def execWr (req : BftReq) (mask : BitVec 128) (data : BitVec 1024) (s : State) : Out :=
  .next (fabricServes s req true true (fun t =>
    answerBft (writeMasked t (lineOf (fabricOffset req)) mask data false) req 0 false []))

def execBftAtomic (req : BftReq) (op : AtomicOp) (sz : BitVec 2) (b cc : BitVec 128) (s : State) : Out :=
  .next (let pa := fabricOffset req
    fabricServes s req (op ≠ .counterAdd) true (fun t =>
      if poisoned t pa then answerBft t req 0 true (atomicAnswer sz 0)
      else
        match outsideAtomic t pa op (atomicBytes sz) b cc false with
        | none => answerBft t req 1 false []
        | some (t1, old) => answerBft t1 req 0 false (atomicAnswer sz old)))

/-- CTRADD: a refused add answers with the word's value (log entry 31). -/
def execCtrAdd (req : BftReq) (inc : Word) (s : State) : Out :=
  .next (let pa := fabricOffset req
    fabricServes s req true true (fun t =>
      if poisoned t pa then answerBft t req 0 true (leBytes 8 0)
      else
        match outsideAtomic t pa .counterAdd 8 (inc.zeroExtend 128) 0 false with
        | none => answerBft (noteRead t (lineOf pa) hostCache) req 1 false (leBytes 8 (memWord t.mem pa).toNat)
        | some (t1, old) => answerBft t1 req 0 false (leBytes 8 old.toNat)))

/-- CTRWAIT: a waiter of another package is registered and evaluated. -/
def execCtrWait (req : BftReq) (target : Word) (s : State) : Out :=
  .next (let pa := fabricOffset req
    fabricServes s req (pa % 8 = 0) false (fun t =>
      let t1 := noteRead t (lineOf pa) hostCache
      { t1 with waiters := t1.waiters ++ [⟨req.snode, req.part.toNat, req.tag, pa, target⟩] }))

/-- RSP: data, an old value, or a refusal from another package. -/
def execRsp (tag : Nat) (bytes : BitVec 1024) (denied ps : Bool) (s : State) : Out :=
  .next (match tabGet s.asks tag with
    | none => s
    | some a =>
      if a.link = 0 then s
      else
        match a.who with
        | .wt id =>
          let s1 := { s with asks := tabDel s.asks tag }
          let poison : State := match tabGet s1.wts id with
            | some w => faultWt s1 id w (uncorrectable w.va.toNat (lineOf w.pa) 0)
            | none => s1
          if ps then poison else answerWt s1 id denied (some (bytes.truncate 64))
        | _ => keepAnswer s tag a (bytesOfLine bytes) ps denied)

/-- CTRWAKE: the target of a waiter on a fabric counter is met. -/
def execCtrWake (tag : Nat) (value : Word) (s : State) : Out :=
  .next (match tabGet s.asks tag with
    | none => s
    | some a => if a.link = 0 || a.code ≠ 0x05 then s else keepAnswer s tag a (leBytes 8 value.toNat) false false)

/-! ### The transport's own events (R278, R375, R377) -/

/-- IEEE_1588_MESSAGE: at a port towards the grandmaster, the rate of the time base, within 500 ppm. -/
def execIeee1588Message (m : ClockMsg) (s : State) : Out :=
  .next (if s.clockPorts.contains m.port && decide (-500 ≤ m.ppm) && decide (m.ppm ≤ 500) then { s with rate := m.ppm }
    else s)

/-- PFC_PAUSE: a lossless class is paused, or goes on. -/
def execPfcPause (link cls : Nat) (on : Bool) (s : State) : Out :=
  .next (if 9 ≤ link || !(cls = 3 || cls = 4) then s
    else
      let l := linkAt s link
      let p := l.paused.filter (fun c => c ≠ cls)
      flushHeld (setLink s link { l with paused := if on then cls :: p else p }) link)

/-- RETRANSMIT_TIMEOUT: every frame not acknowledged is sent again. -/
def execRetransmitTimeout (link : Nat) (s : State) : Out :=
  .next (let l := linkAt s link
    if 9 ≤ link || !l.up then s
    else
      { s with out := s.out ++
          (l.unacked.filter (fun e => !l.paused.contains (msgClass link e.2.code))).map (fun e => frameOf s e.1 e.2) })

/-- A fault charged to who waits for an access. -/
def chargeAsker (s : State) (who : Asker) (f : FaultReq) : State :=
  let seq (key : Nat) (sd : Side) : State := match tabGet s.ctxs key with | some _ => raiseCtxFault s key sd f | none => s
  match who with
  | .seq key sd => seq key sd
  | .fetch key sd => seq key sd
  | .stream key q => seq key (bindOf (ctxAt s key) (BitVec.ofNat 2 q)).own
  | .wt id => (match tabGet s.wts id with | some w => faultWt s id w f | none => s)
  | .cmd id => (match tabGet s.cmds id with
    | some c => cmdFaults s id c f
    | none => (match tabGet s.bankCmds id with | some c => bankFaults s id c f | none => s))
  | .home => s
  | .fill _ => s

/-- TRANSPORT_TIMEOUT: an access outstanding for 10 ms faults LINK_FAILURE; a load stream's is raised at
the pop. Requests of a home to the host, and a counter's waiter at another package, are no such access. A line asked for
as the package's own goes back to the host should it still come. -/
def execTransportTimeout (tag : Nat) (s : State) : Out :=
  .next (match tabGet s.asks tag with
    | none => s
    | some a =>
      if s.now < a.sent + 10000000 || a.code = 0x05 || (a.link = 0 && a.code = 0x09) then s
      else
        let f : FaultReq := ⟨0x12, 0, 0, portInfo a.link, 0, none⟩
        let s1 := { s with
          asks := if a.link = 0 && a.code = 0x02 then tabPut s.asks tag { a with who := .home } else tabDel s.asks tag }
        match a.who with
        | .stream .. => keepAnswer s tag a [] false false
        | .home => s
        | w => chargeAsker s1 w f)

/-- THE HEADER OF A FRAME OF A CLASS (R375): its acknowledgement is cumulative, so the frames of the class numbered before
it are done with; a frame in sequence is taken, and the next one expected. -/
def frameHeader (link cls : Nat) (seq ack : BitVec 32) (s : State) : State :=
  let l := linkAt s link
  let next := tabD l.txNext cls 0
  let open_ := (BitVec.ofNat 32 next - ack).toNat
  let rx := tabD l.rxNext cls 0
  if 9 ≤ link then s
  else
    setLink s link { l with
      unacked := l.unacked.filter (fun e => msgClass link e.2.code ≠ cls || decide (next ≤ e.1 + open_))
      rxNext := if seq = BitVec.ofNat 32 rx then tabPut l.rxNext cls (rx + 1) else l.rxNext }

/-- PORT_STATE_CHANGE: a port goes down or returns, and the frames it held go out. -/
def execPortStateChange (link : Nat) (up : Bool) (s : State) : Out :=
  .next (if 9 ≤ link || (linkAt s link).up = up then s
    else
      let s1 := flushHeld (setLink s link { linkAt s link with up := up }) link
      mgmtEvent s1 2 (link + up.toNat * 2 ^ 8))

end Sys2Proof.Machine
end

