-- ==== Sys2Proof/Machine/Halts.lean ====
section
/-!
DEFINITION. Link failures (R352, R378), the halt and its stop table (R353 to R361), the release (R362), the iteration
watchdog (R363), and the saturation window (R350).
-/

namespace Sys2Proof.Machine

/-! ### Link failures (R352, R378) -/

def isLink (l : Nat) : Bool := l < 4 || (16 ≤ l && l < 24)

/-- The two dies of a shared edge (R8). -/
def edgeDies (l : Nat) : List Nat :=
  match l with | 0 => [0, 1] | 1 => [2, 3] | 2 => [0, 2] | _ => [1, 3]

/-- The partition has a cluster on a die of the failed edge, or a granule in the failed stack; every granule lies in all
stacks (R158, R366). -/
def linkConcerns (p : Part) (l : Nat) : Bool :=
  p.configured &&
    (if l < 4 then (List.range 16).any (fun c => p.clus.getLsbD c && (edgeDies l).contains (dieOfCluster c)) else p.gran ≠ 0)

/-- The partition and the core of an asker: none of a home or of a cache. -/
def askerHome (s : State) : Asker → Option (Nat × Nat)
  | .seq key _ => (tabGet s.ctxs key).map (fun c => (c.part, c.core))
  | .fetch key _ => (tabGet s.ctxs key).map (fun c => (c.part, c.core))
  | .stream key _ => (tabGet s.ctxs key).map (fun c => (c.part, c.core))
  | .wt id => (tabGet s.wts id).map (fun w => (w.part, w.core))
  | .cmd id =>
    match tabGet s.cmds id with
    | some c => some (c.issuer.part, c.issuer.core)
    | none => (tabGet s.bankCmds id).map (fun c => (c.issuer.part, c.issuer.core))
  | .home => none
  | .fill _ => none

/-- An access of a partition's asker waits on a link that `used` says it uses from its core. -/
def waitsOnLink (s : State) (l p : Nat) (who : Asker) (used : Nat → List Nat) : Bool :=
  match askerHome s who with
  | some (q, core) => q = p && (used core).contains l
  | none => false

/-- The accesses of a partition that wait on a link, by the numbers of their operations: requests without their answer and
writes without their acknowledgement, and those in the queue of a bank's channel. -/
def accessesOn (s : State) (l p : Nat) : List (Nat × Asker) :=
  (s.asks.filter (fun e => waitsOnLink s l p e.2.who (fun core =>
      edgesBetween (dieOfCluster (clusterOfCore core)) (dieOfCluster (clusterOfCore (portCore e.2.link)))))).map
    (fun e => (e.1, e.2.who)) ++
  (s.wts.filter (fun e => e.2.phase ≠ .stopped &&
      waitsOnLink s l p (.wt e.1) (fun core => linksUsed s core (window s core e.2.pa)))).map (fun e => (e.1, Asker.wt e.1)) ++
  (s.bankWaits.filter (fun w => stillWaits s w &&
      waitsOnLink s l p w.who (fun core =>
        (16 + w.bank / 2048) :: edgesBetween (dieOfCluster (clusterOfCore core)) (dieOfBank w.bank)))).map
    (fun w => (w.id, w.who))

/-- The first of the lowest number. -/
def oldestAccess : List (Nat × Asker) → Option (Nat × Asker)
  | [] => none
  | e :: r =>
    match oldestAccess r with
    | none => some e
    | some f => if f.1 < e.1 then some f else some e

/-- LINK_FAILURE in one partition: charged to the oldest access that waits on the link, or to no context (R352; log entry
32). -/
def failLinkIn (l : Nat) (s : State) (p : Nat) : State :=
  match oldestAccess (accessesOn s l p) with
  | some (n, who) =>
    let s1 := chargeAsker s who ⟨0x12, 0, 0, BitVec.ofNat 16 l, 0, none⟩
    { s1 with asks := tabDel s1.asks n, bankWaits := s1.bankWaits.filter (fun w => w.id ≠ n) }
  | none => modPart s p (fun q => { q with line := true })

def failLink (s : State) (l : Nat) : State :=
  let s1 := { s with edgeDown := if s.edgeDown.contains l then s.edgeDown else l :: s.edgeDown }
  ((s1.parts.filter (fun e => linkConcerns e.2 l)).map Prod.fst).foldl (failLinkIn l) s1

/-- LINK_FAILURE: an edge or a stack interface goes down. -/
def execLinkFailure (link : Nat) (s : State) : Out := .next (if isLink link then failLink s link else s)

/-- An edge has eight modules (R378); a stack interface counts as one. -/
def isModule (m : EdgeModule) : Bool := isLink m.link && decide (m.module < if m.link < 4 then 8 else 1)

/-- LINK_RETRY (R378, Table 7.5): the fourth failed retry in a row of one module takes the link down. -/
def execLinkRetry (m : EdgeModule) (failed : Bool) (s : State) : Out :=
  .next (let k := 8 * m.link + m.module
    if !isModule m then s
    else if !failed then { s with edgeRetries := tabDel s.edgeRetries k }
    else
      let n := tabD s.edgeRetries k 0 + 1
      if 4 ≤ n then failLink { s with edgeRetries := tabDel s.edgeRetries k } m.link
      else { s with edgeRetries := tabPut s.edgeRetries k n })

/-! ### Stop records (Table 17.4) -/

/-- The probe list (R359). -/
def probeBits (f : FaultInfo) : Nat :=
  match f.probe with
  | none => 0
  | some (l, more) =>
    2 ^ 31 + l.length * 2 ^ 32 + more.toNat * 2 ^ 37 +
      (l.zipIdx.foldl (fun n e => n + (e.1.1.toNat + bitsOf e.1.2.toNat 16 32 * 2 ^ 16) * 2 ^ (1024 + 64 * e.2)) 0)

/-- The fields a fault fills; the device writes pc into rpc and 0 into ract. -/
def faultBits (f : FaultInfo) (mf : Bool) : Nat :=
  f.code.toNat + 2 ^ 14 + (match f.sq with | .a => 0 | .x => 1) * 2 ^ 15 + f.e.toNat * 2 ^ 28 + mf.toNat * 2 ^ 29 +
    f.fl.toNat * 2 ^ 30 + probeBits f + f.lvl.toNat * 2 ^ 38 + f.time.toNat * 2 ^ 64 + f.pc.toNat * 2 ^ 128 +
    f.addr.toNat * 2 ^ 192 + f.val.toNat * 2 ^ 256 + f.info.toNat * 2 ^ 320 + f.pc.toNat * 2 ^ 416

/-- A record: its `ctx` field, slot, context block and fault. -/
def stopRecord (part ctx slot cblk : Nat) (f : Option FaultInfo) (mf : Bool) : Nat :=
  part * 2 ^ 8 + ctx * 2 ^ 12 + slot * 2 ^ 16 + cblk * 2 ^ 352 +
    (match f with | some g => faultBits g mf | none => 0)

def ctxRecord (p : Nat) (c : Ctx) : Nat :=
  stopRecord p (match c.place with | .inSlot _ => 1 | _ => 2) (slotOfCtx c) c.cblk c.fault c.mf

def detachedRecord (p : Nat) (d : FaultInfo × Bool) : Nat := stopRecord p 3 d.1.slot.toNat 0 (some d.1) d.2

/-- The address of record `n` of a partition's stop table (R358). -/
def recordAddr (s : State) (p n : Nat) : Nat := (partAt s p).stbase.toNat + 256 * n

def stopTableBytes : Nat := 4198400

/-- The partition's clusters. -/
def partClusters (q : Part) : List Nat := (List.range 16).filter (fun c => q.clus.getLsbD c)

def partCtxs (s : State) (p : Nat) : List (Nat × Ctx) := s.ctxs.filter (fun e => e.2.part = p)

/-- The partition's hart slots that differ from reset. -/
def partSlots (s : State) (p : Nat) : List Nat :=
  (s.slots.map Prod.fst).filter (fun n => (partAt s p).clus.getLsbD (clusterOfSlot n))

def partDetached (s : State) (p : Nat) : List (Nat × (FaultInfo × Bool)) :=
  s.detached.filter (fun e => (partAt s p).clus.getLsbD e.1)

/-- A byte of a record of one of the partition's clusters. -/
def inStopTable (q : Part) (a : Nat) : Bool :=
  let k := (a - q.stbase.toNat) / 256
  q.stbase.toNat ≤ a && k < 16400 && q.clus.getLsbD (if k < 16384 then k / 1024 else k - 16384)

/-- A record cannot be written or read: a failed link cuts it off from the partition (R8, R378; log entry 32). -/
def recordCut (s : State) (p n : Nat) : Bool := rangeCut s (partCore s p) (recordAddr s p n) 256

/-- A byte of a record that the halt writes. -/
def haltWrites (s : State) (p a : Nat) : Bool :=
  inStopTable (partAt s p) a && !recordCut s p ((a - (partAt s p).stbase.toNat) / 256)

/-- The numbers of the records of the partition's clusters (R358). -/
def recordNumbers (q : Part) : List Nat :=
  (partClusters q).flatMap (fun c => (List.range 1024).map (fun i => 1024 * c + i)) ++ (partClusters q).map (fun c => 16384 + c)

/-- The channels that take the records' lines (R345). -/
def noteRecords (s : State) (p : Nat) : State :=
  let lines := ((recordNumbers (partAt s p)).filter (fun n => !recordCut s p n)).flatMap (fun n =>
    linesIn (recordAddr s p n) 256)
  { s with chan := s.chan ++ lines.map (fun l => (l, inSlice s l)) }

/-- Every record of the partition's clusters (R358): all zero but those of contexts and of detached faults. -/
def writeStopTable (s : State) (p : Nat) : State :=
  let ctxs := (partCtxs s p).filter (fun e => !recordCut s p e.1)
  let det := (partDetached s p).filter (fun e => !recordCut s p (16384 + e.1))
  let m0 := s.mem.filter (fun c => !haltWrites s p c.1)
  let m1 := ctxs.foldl (fun m e => memWrite m (recordAddr s p e.1) (leBytes 256 (ctxRecord p e.2))) m0
  let m2 := det.foldl (fun m e => memWrite m (recordAddr s p (16384 + e.1)) (leBytes 256 (detachedRecord p e.2))) m1
  noteRecords { s with mem := m2, poison := s.poison.filter (fun l => !haltWrites s p (128 * l)) } p

/-! ### The halt (R353, R354) -/

/-- A write of the partition that can still go on; one that stopped, waits for another, or belongs to the scheduler stays
for the release. -/
def wtGoesOn (s : State) (p : Nat) (e : Nat × Wt) : Bool :=
  e.2.part = p &&
    (match e.2.phase with
      | .stopped => false
      | .toHome => !(wtBehind s e.1 e.2 || addHeld s e.2 || addStops s e.2 || cutOff s e.2.core (window s e.2.core e.2.pa))
      | _ => true)

def seqIn (s : State) (p key : Nat) (sd : Side) : Bool :=
  (ctxAt s key).part = p && !seqWaits (seqOf (ctxAt s key) sd)

/-- An asker of the partition whose access completes during the halt. -/
def askerIn (s : State) (p : Nat) : Asker → Bool
  | .seq key sd => seqIn s p key sd
  | .stream key _ => (ctxAt s key).part = p
  | .fetch key _ => (ctxAt s key).part = p
  | .wt id => (match tabGet s.wts id with | some w => w.part = p | none => false)
  | .cmd id => (match tabGet s.cmds id, tabGet s.bankCmds id with
    | some c, _ => c.issuer.part = p
    | none, some c => c.issuer.part = p
    | none, none => false)
  | .home => false
  | .fill _ => false

def answerOfSeq (s : State) (p : Nat) : Asker → Bool
  | .seq key sd => seqIn s p key sd && (seqOf (ctxAt s key) sd).status ≠ .faulted
  | _ => false

/-- A running context still has pushed elements of a store stream to write. -/
def streamsToWrite (c : Ctx) : Bool :=
  [0, 1, 2, 3].any (fun i =>
    let b := c.binds.getD i Binding.unbound
    b.bound && b.dir && (c.q.getD i []).any QEnt.stream)

/-- A bank of the command is in the current wave of its die. -/
def inCurrentWave (s : State) (e : Nat × BankCmd) : Bool :=
  ((dieAt s e.2.die).wave.map (fun w => w.banks.any (fun b => (bluAt s b).cmd = some e.1))).getD false

/-- A bank command of the partition that has to go on before the halt is complete: it is in a wave, has only to retire, or
builds a table, loads a program or writes a codebook (Table 17.3). A faulted or aborted one ends with its wave too. -/
def bankGoesOn (s : State) (p : Nat) (e : Nat × BankCmd) : Bool :=
  let c := e.2
  c.issuer.part = p &&
    (if c.faulted || c.aborted then inCurrentWave s e
     else if isCbld c then (cmdDies c).any (fun d => cbldReady s d e.1 c)
     else if (bankDesc c).isNone then c.started
     else c.started && ((waveBanks s e.1 c).isEmpty || inCurrentWave s e))

/-- A started kernel command of the partition between waves: the halt aborts it (R356). -/
def haltAborts (s : State) (p : Nat) (e : Nat × BankCmd) : Bool :=
  e.2.issuer.part = p && e.2.started && !e.2.faulted && (bankDesc e.2).isSome && !bankGoesOn s p e

/-- A command of the copy engines or of the collective engine whose writes are all made has only to complete. -/
def cmdGoesOn (s : State) (p : Nat) (e : Nat × Cmd) : Bool :=
  e.2.issuer.part = p && e.2.stage = 2 && !e.2.faulted && !s.wts.any (fun w => w.2.cmd = some e.1)

def isFetch : Asker → Bool
  | .fetch .. => true
  | _ => false

/-- Every agent of the partition has stopped and every issued access has completed, those in the queues of banks in a wave
too. A spill that a failed link keeps from its block is left (log entry 32). -/
def partQuiet (s : State) (p : Nat) : Bool :=
  !s.wts.any (wtGoesOn s p) && !s.asks.any (fun e => askerIn s p e.2.who) &&
    !s.bankWaits.any (fun w => stillWaits s w && !isFetch w.who && askerIn s p w.who) &&
    !s.answers.any (fun e => answerOfSeq s p e.2.ask.who) &&
    (partCtxs s p).all (fun e => !streamsToWrite e.2) && !s.mx.any (fun e => (ctxAt s e.2.ctx).part = p) &&
    !s.bankCmds.any (bankGoesOn s p) && !s.bankCmds.any (haltAborts s p) && !s.cmds.any (cmdGoesOn s p) &&
    (partSlots s p).all (fun n => match (slotAt s n).mirror with
      | .spilling k => rangeCut s (ctxAt s k).core (ctxBlock s k) (ctxBytes (ctxAt s k).slices)
      | _ => true)

/-- The started kernel commands of the partition that no wave holds are aborted (R356). -/
def abortBanks (s : State) (p : Nat) : State :=
  (s.bankCmds.filter (haltAborts s p)).foldl (fun t e => dropBank (abortTile t e.2) e.1 e.2) s

/-- What was staged goes back: a context to its block, a new iteration to its task. -/
def unstage (s : State) (n : Nat) : State :=
  let back (k : Nat) : State := modCtx s k (fun c => { c with place := .out })
  let s1 := match (slotAt s n).mirror with
    | .staging (.ctx k) | .staged (.ctx k) => back k
    | _ => s
  modSlot s1 n (fun l => { l with mirror := .empty })

/-- The context stands in a hart slot. -/
def Ctx.inSlot (c : Ctx) : Bool := match c.place with | .inSlot _ => true | _ => false

/-- The partition's contexts that stand in a slot. -/
def runningCtxs (s : State) (p : Nat) : List (Nat × Ctx) :=
  (partCtxs s p).filter (fun e => e.2.inSlot)

/-- The stop table and the blocks of the running contexts made ready for the device, which writes or reads them, or what their
homes wait for. The halt passes over what a failed link cuts off; the release waits for it (log entry 32). -/
def blocksReady (write : Bool) (s : State) (p : Nat) : State × Bool :=
  (runningCtxs s p).foldl (fun r e => readyRange write p e.2.core write (ctxBlock s e.1) (ctxBytes e.2.slices) r)
    (readyRange write p (partCore s p) write (partAt s p).stbase.toNat stopTableBytes (s, true))

/-- What was staged goes back, and the running contexts are in their blocks. -/
def savedState (s : State) (p : Nat) : State :=
  (runningCtxs s p).foldl (fun t e => saveCtx t e.1) ((partSlots s p).foldl unstage s)

/-- HaltNote (Table 18.4). -/
def haltNote (s : State) (p : Nat) : Msg :=
  let q := partAt s p
  hostMsg 0x13 p 0 0 0 false (leBytes 8 p ++ leBytes 8 q.stbase.toNat ++
    leBytes 8 (match q.fl with | some n => recordAddr s p n | none => 0))

/-- THE PARTITION HALTED: its running contexts saved, every record of its stop table written, the host notified. -/
def haltedState (s : State) (p : Nat) : State :=
  sendMsg (modPart (writeStopTable (savedState s p) p) p (fun q => { q with halted := true })) (haltNote s p)

/-- HALT_COMPLETE (R353): bank commands between waves are aborted; once every access has completed (R354), running contexts
and stop records are written, and the host is notified. -/
def execHaltComplete (part : BitVec 4) (s : State) : Out :=
  let p := part.toNat
  .next (let q := partAt s p
    if !q.configured || !q.line || q.halted then s
    else if s.bankCmds.any (haltAborts s p) then abortBanks s p
    else if !partQuiet s p then s
    else
      let r := blocksReady true s p
      if r.2 then haltedState r.1 p else r.1)

/-! ### The release (R362) -/

/-- rpc and ract as they stand in a record. -/
def recordRpc (s : State) (p n : Nat) : Word := memWord s.mem (recordAddr s p n + 52)
def recordRact (s : State) (p n : Nat) : Nat := memNat s.mem (recordAddr s p n + 60) 1 % 4
/-- F as it stands in a record: a fault met after the records were written is in none of them. -/
def recordF (s : State) (p n : Nat) : Bool := bitsOf (memNat s.mem (recordAddr s p n) 2) 14 1 = 1

/-- The check of one record with F = 1. -/
def recordOk (s : State) (p n : Nat) (f : FaultInfo) : Bool :=
  if f.e then recordRact s p n < 2 else (recordRpc s p n).toNat % 8 = 0

/-- The faults of the partition by their record numbers: those of the records with F = 1. -/
def partFaults (s : State) (p : Nat) : List (Nat × FaultInfo) :=
  let l : List (Nat × FaultInfo) := (partCtxs s p).filterMap (fun e => e.2.fault.map (fun f => (e.1, f))) ++
    (partDetached s p).map (fun e => (16384 + e.1, e.2.1))
  l.filter (fun e => recordF s p e.1)

/-- The commands, adds and stores that the host discards. -/
def discarded (s : State) (p : Nat) : List Nat :=
  (partFaults s p).filterMap (fun e => if e.2.e && recordRact s p e.1 = 1 then e.2.cmd else none)

/-- The resume address of a sequencer, where its record gives one. -/
def resumeAt (s : State) (p key : Nat) (sd : Side) : Option Word :=
  match (ctxAt s key).fault with
  | some f => if !f.e && f.sq = sd && recordF s p key then some (recordRpc s p key) else none
  | none => none

/-- A sequencer's PC goes to the context's block. -/
def writeBlockPc (p : Nat) (s : State) (key : Nat) (sd : Side) (pc : Option Word) : State :=
  match pc with
  | some w => blockWrite s p (ctxAt s key).core (ctxBlock s key + (match sd with | .a => 0 | .x => 8)) (wordBytes w)
  | none => s

/-- The sequencers of a context go on: the faulting one of a record with E = 0 at rpc, as the records in `r` give it. In a slot an
instruction that had stalled issues again. A context with ctx = 2 is read from its block when it is next staged, so its rpc goes
there too. -/
def resumeCtx (r : State) (p : Nat) (s : State) (key : Nat) : State :=
  let pa := resumeAt r p key .a
  let px := resumeAt r p key .x
  let again := (ctxAt s key).inSlot
  let s1 := if again then s else writeBlockPc p (writeBlockPc p s key .a pa) key .x px
  modCtx s1 key (fun c => { c with a := resumeSeq c.a pa again, x := resumeSeq c.x px again, fault := none, mf := false })

/-- A waiter of a counter in another package that issues again asks anew (R362). -/
def dropWaitAsks (s : State) (p : Nat) : State :=
  let again (who : Asker) : Bool := match who with
    | .seq key _ => (ctxAt s key).part = p && (ctxAt s key).inSlot
    | _ => false
  { s with asks := s.asks.filter (fun e => !(e.2.link ≠ 0 && e.2.code = 0x05 && again e.2.who)) }

/-- A stopped command of the copy engines or the collective engine: restarted from its start, or completed with no
further effect. -/
def releaseCmd (gone : List Nat) (s : State) (e : Nat × Cmd) : State :=
  if gone.contains e.1 then
    dropCmd (cmdTileDone { s with wts := s.wts.filter (fun w => w.2.cmd ≠ some e.1) } e.2.issuer e.2.kind) e.1 e.2
  else setCmd s e.1 { e.2 with faulted := false, stage := 0 }

/-- A stopped bank command: its result tile fills again, or stays empty with AB = 1. It keeps the codebook slot it captured
(R297). -/
def releaseBank (gone : List Nat) (s : State) (e : Nat × BankCmd) : State :=
  let c := e.2
  if gone.contains e.1 then dropBank s e.1 c
  else
    let s1 := setBank s e.1 { c with faulted := false, started := false, sums := [], sats := 0, drained := 0, lastBank := none }
    match bankTile c with
    | some (n, _) => if sameIteration s c.issuer then fillTile s1 c.issuer.ctx n else s1
    | none => s1

/-- A stopped store or add: repeated, or discarded; a task whose add is discarded leaves its window entry. -/
def releaseWt (gone : List Nat) (s : State) (e : Nat × Wt) : State :=
  if gone.contains e.1 then wtDone s e.1 e.2 else setWt s e.1 { e.2 with phase := .toHome }

/-- A ceiling exceeded during the halt faults now (R357). -/
def checkCeilings (key : Nat) (s : State) (sd : Side) : State :=
  match (seqOf (ctxAt s key) sd).status with
  | .waiting (.satisfied (some o)) => raiseCtxFault s key sd (overrun o.1 o.2)
  | _ => s

/-- The stopped commands, stores and adds of the partition restart, or are discarded. -/
def releaseWork (s : State) (p : Nat) (gone : List Nat) : State :=
  let s1 := (s.cmds.filter (fun e => e.2.issuer.part = p && e.2.faulted)).foldl (releaseCmd gone) s
  let s2 := (s1.bankCmds.filter (fun e => e.2.issuer.part = p && e.2.faulted)).foldl (releaseBank gone) s1
  (s2.wts.filter (fun e => e.2.part = p && e.2.phase = .stopped)).foldl (releaseWt gone) s2

/-- What streams and fetches of the partition had been given is asked for again. -/
def staleAnswer (s : State) (p : Nat) : Asker → Bool
  | .stream k _ => (ctxAt s k).part = p
  | .fetch k _ => (ctxAt s k).part = p
  | _ => false

/-- The halt line falls, and the faults of the partition with it; the harts run again. -/
def clearHalt (s : State) (p : Nat) : State :=
  let s1 := { s with answers := s.answers.filter (fun e => !staleAnswer s p e.2.ask.who)
                     detached := s.detached.filter (fun e => !(partAt s p).clus.getLsbD e.1) }
  let s2 := modPart s1 p (fun q => { q with line := false, halted := false, fl := none })
  (partSlots s2 p).foldl (fun t n => wdogReset (modSlot t n (fun l => { l with fill := none })) n) s2

/-- The contexts in slots come back from their blocks. -/
def restoredState (s : State) (p : Nat) : State := (runningCtxs s p).foldl (fun t e => restoreCtx t e.1) s

/-- THE PARTITION RELEASED (R362): the contexts in slots come back from their blocks, the sequencers go on as the records
say, the work that had stopped restarts or is discarded, and what was due during the halt comes about, in the order of the hart
slots (R355). -/
def releasedState (s : State) (p : Nat) : State :=
  let inSlots := byHart (runningCtxs s p)
  let s1 := restoredState s p
  let s2 := dropWaitAsks ((partCtxs s1 p).foldl (fun t e => resumeCtx s p t e.1) s1) p
  let s3 := clearHalt (releaseWork s2 p (discarded s p)) p
  let s4 := (byHart (partCtxs s3 p)).foldl (fun t e => checkCeilings e.1 (checkCeilings e.1 t .a) .x) s3
  let s5 := inSlots.foldl (fun t e => blockError t e.1 .x (blockRanges t e.1)) s4
  inSlots.foldl (fun t e => endIfOver t e.1) s5

/-- HALTRELEASE: the checks, the answer, and the resumption of R362. A partition that has not halted is answered with status
1 (log entry 45); one whose stop table or blocks wait at their homes is served later (log entry 2). -/
def execHaltRelease (part : BitVec 4) (tag : Nat) (s : State) : Out :=
  let p := part.toNat
  let answer (t : State) (st : Nat) : State := sendMsg t (hostMsg 0x0C p tag 0 st false [])
  .next (if !s.powered then s
    else if !(partAt s p).halted then answer s 1
    else
      let r := blocksReady false s p
      if !r.2 then r.1
      else if !(partFaults r.1 p).all (fun e => recordOk r.1 p e.1 e.2) then answer r.1 1
      else answer (releasedState r.1 p) 0)

/-! ### The iteration watchdog (R363) and the saturation window (R350) -/

/-- ITERATION_WATCHDOG: the count of a running hart has passed the limit sampled at its last reset. -/
def execIterationWatchdog (slot : Nat) (s : State) : Out :=
  .next (let l := slotAt s slot
    match l.ctx with
    | none => s
    | some key =>
      let c := ctxAt s key
      let sd : Side := if c.x.status = .done then .a else .x
      if l.wdogLimit = 0 || decide (l.wdogCount ≤ l.wdogLimit) || (partAt s c.part).halted ||
          atWaitBoundary s key c || (seqOf c sd).status = .faulted ||
          ((c.fault.map (fun f => decide (f.code = 0x0F))).getD false) then s
      else raiseCtxFault s key sd ⟨0x0F, 0, BitVec.ofNat 64 l.wdogCount, 0, 0, none⟩)

/-- SATURATION_WINDOW_START: at a multiple of sw.satwin a new window begins. -/
def execSaturationWindowStart (slot : Nat) (s : State) : Out :=
  .next (modSlot s slot (rollWindow s))

end Sys2Proof.Machine
end

