-- ==== Sys2Proof/Machine/Dispatching.lean ====
section
/-!
DEFINITION. The steps of the cluster schedulers: the in-flight window (R268), launch times (R272), dispatch, priorities and
pre-emption (R271 to R275), staging, swaps and spills (R89, R90, R364, R365), and the completion of tasks (R270).
-/

namespace Sys2Proof.Machine

/-- A task of a cluster whose partition's schedulers run. -/
def runningTask (s : State) (cluster task : Nat) : Option Task :=
  (taskAt s task).filter (fun t => t.cluster = cluster && partRuns s t.part)

/-! ### The in-flight window (R268) -/

/-- WINDOW_ENTRY: the oldest ranged task outside the window enters it, and depends on every conflicting task in it. -/
def execWindowEntry (cluster : Nat) (s : State) : Out :=
  .next (let l := clusterTasks s cluster
    let inside := l.filter (fun e => e.2.entered)
    match l.find? (fun e => e.2.rcd.ranged && !e.2.entered) with
    | none => s
    | some (id, t) =>
      if !partRuns s t.part || 64 ≤ inside.length then s
      else
        let deps := (inside.filter (fun e => recsConflict t.rcd e.2.rcd)).map Prod.fst
        setTask s id { t with entered := true, deps := deps })

/-! ### Timed tasks and priorities (R272, R273) -/

/-- LAUNCH_TIME: the time base reaches a timed task's launch time. -/
def execLaunchTime (cluster task : Nat) (s : State) : Out :=
  .next (match runningTask s cluster task with
    | none => s
    | some t =>
      if t.launched || decide (s.now < t.rcd.launch.toNat) then s else setTask s task { t with launched := true })

/-- PRIORITY_AGING: 100 µs spent dispatchable raise the priority of the task and of its running contexts. -/
def execPriorityAging (cluster task : Nat) (s : State) : Out :=
  .next (match runningTask s cluster task with
    | none => s
    | some t =>
      if t.readyNs < 100000 then s
      else
        let p : BitVec 2 := if t.prio = 3 then 3 else t.prio + 1
        let s1 := setTask s task { t with prio := p, readyNs := t.readyNs - 100000 }
        { s1 with ctxs := s1.ctxs.map (fun e => (e.1,
            match e.2.place with
            | .inSlot _ => if e.2.task = task then { e.2 with prio := p } else e.2
            | _ => e.2)) })

/-! ### Pre-emption requests (R275) -/

/-- The hart slots of a cluster. -/
def slotsOf (cluster : Nat) : List Nat := (List.range 192).map (fun i => 192 * cluster + i)

/-- A hart of lower priority, with no request yet, that meets the task's resources once freed. -/
def victimOk (s : State) (id : Nat) (t : Task) (slot : Nat) : Bool :=
  match (slotAt s slot).ctx with
  | none => false
  | some k => decide ((ctxAt s k).prio < t.prio) && (slotAt s slot).request.isNone &&
      taskFits s (coreOfSlot slot) id t (some k)

/-- `a` is pre-empted rather than `b`: lower priority, then running longer. -/
def victimBefore (s : State) (a b : Nat) : Bool :=
  let x := ctxAt s ((slotAt s a).ctx.getD 0)
  let y := ctxAt s ((slotAt s b).ctx.getD 0)
  decide (x.prio < y.prio) || (x.prio = y.prio && decide (x.since < y.since))

/-- A slot the task may be given at once. -/
def slotFreeFor (s : State) (id : Nat) (t : Task) (slot : Nat) : Bool :=
  (slotAt s slot).ctx.isNone && (slotAt s slot).mirror = .empty && taskFits s (coreOfSlot slot) id t none

/-- The request stands at the slot with the priority that the task has now, which its record gives (log entry 94).
Its incoming work is staged in the place of what was, as soon as a spill has left the mirror bank (R364). -/
def requestSlot (s : State) (id : Nat) (t : Task) (slot : Nat) : State :=
  match (slotAt s slot).mirror with
  | .spilling _ => modSlot s slot (fun l => { l with request := some ⟨id, t.prio, 0⟩ })
  | _ =>
    modSlot (unstage s slot) slot (fun l =>
      { l with request := some ⟨id, t.prio, 0⟩, mirror := .staging (.new id 0 t.rcd.slices) })

/-- PREEMPTION_REQUEST: a dispatchable task that finds no slot asks for one running hart. -/
def execPreemptionRequest (cluster task slot : Nat) (s : State) : Out :=
  .next (match runningTask s cluster task with
    | none => s
    | some t =>
      let l := slotsOf cluster
      if !dispatchable s t || l.any (slotFreeFor s task t) ||
          s.slots.any (fun e => (e.2.request.map (fun r => decide (r.task = task))).getD false) ||
          !(l.contains slot && victimOk s task t slot) ||
          l.any (fun n => victimOk s task t n && victimBefore s n slot) then s
      else requestSlot s task t slot)

/-- The first choice among the victims left. -/
def bestVictim (s : State) (id : Nat) (t : Task) : Option Nat :=
  (slotsOf t.cluster).foldl (fun b n =>
    if victimOk s id t n then
      match b with
      | none => some n
      | some m => if victimBefore s n m then some n else b
    else b) none

/-- Slots prepared for a timed task: free ones take a first iteration into their mirror bank, others are requested. -/
def prepareSlots (id : Nat) (t : Task) : Nat → State → State
  | 0, s => s
  | n + 1, s =>
    match (slotsOf t.cluster).find? (slotFreeFor s id t) with
    | some slot => prepareSlots id t n (modSlot s slot (fun l => { l with mirror := .staging (.new id 0 t.rcd.slices) }))
    | none =>
      match bestVictim s id t with
      | some slot => prepareSlots id t n (requestSlot s id t slot)
      | none => s

/-- TIMED_PREPARE: from 20 µs before the launch time, once the task's dependences are released. -/
def execTimedPrepare (cluster task : Nat) (s : State) : Out :=
  .next (match runningTask s cluster task with
    | none => s
    | some t =>
      if !t.rcd.timed || t.launched || t.prepared || !taskReleased s t || decide (s.now + 20000 < t.rcd.launch.toNat) then s
      else prepareSlots task t (min t.rcd.count 192) (setTask s task { t with prepared := true }))

/-! ### Dispatch into free slots (R271, R273) -/

/-- What a mirror bank holds or awaits is a task's iteration. -/
def mirrorFor (id : Nat) : Mirror → Bool
  | .staging (.new t _ _) => t = id
  | .staged (.new t _ _) => t = id
  | _ => false

def requestOf (id : Nat) (l : Slot) : Bool := (l.request.map (fun r => decide (r.task = id))).getD false

/-- A request is withdrawn, and what was staged for it goes. -/
def withdraw (id : Nat) (l : Slot) : Slot :=
  { l with request := none, mirror := if mirrorFor id l.mirror then .empty else l.mirror }

/-- Once a task has no iteration left to give, its requests are withdrawn. -/
def withdrawAll (s : State) (id : Nat) : State :=
  if ((taskAt s id).map (fun t => decide (t.dispatched < t.rcd.count))).getD true then s
  else { s with slots := s.slots.map (fun e => (e.1, if requestOf id e.2 then withdraw id e.2 else e.2)) }

/-- A suitable slot has freed first: one request of the task is withdrawn; all of them once no iteration is left. -/
def withdrawAfter (s : State) (id : Nat) : State :=
  match (taskAt s id).filter (fun t => decide (t.dispatched < t.rcd.count)) with
  | none => withdrawAll s id
  | some _ =>
    match s.slots.find? (fun e => requestOf id e.2) with
    | some (n, l) => setSlot s n (withdraw id l)
    | none => s

/-- DISPATCH: a free slot, or one whose hart stands at a wait boundary, is given the work the scheduler picks. A new
iteration starts in a free slot at once; everything else is staged first. -/
def execDispatch (slot : Nat) (s : State) : Out :=
  .next (match partOfCluster s (clusterOfSlot slot) with
    | none => s
    | some p =>
      let l := slotAt s slot
      if 3072 ≤ slot || !partRuns s p || l.mirror ≠ .empty || l.request.isSome then s
      else
        match l.ctx with
        | none =>
          (match pickWork s slot none with
            | none => s
            | some (.ctx k) => modSlot s slot (fun l => { l with mirror := .staging (.ctx k) })
            | some (.new id _ n) =>
              match taskAt s id, groupFor s (coreOfSlot slot) n none with
              | some t, some first => withdrawAfter (startIteration s id t slot first) id
              | _, _ => s)
        | some key =>
          if !atWaitBoundary s key (ctxAt s key) then s
          else
            match pickWork s slot (some key) with
            | none => s
            | some w => modSlot s slot (fun l => { l with mirror := .staging w }))

/-! ### Staging, swaps and spills (R89, R90, R364, R365) -/

/-- A staged task still has an iteration to give. -/
def stagedTask (s : State) (slot id : Nat) : Option Task :=
  (taskAt s id).filter (fun t => decide (t.dispatched < t.rcd.count) && scratchFits s (coreOfSlot slot) id t)

/-- STAGING_COMPLETE: the slices are acquired and the context is read from its block. A new iteration may take over the
outgoing context's group (R364). -/
def execStagingComplete (slot : Nat) (s : State) : Out :=
  .next (match partOfCluster s (clusterOfSlot slot) with
    | none => s
    | some p =>
      let l := slotAt s slot
      let core := coreOfSlot slot
      if !partRuns s p then s
      else
        match l.mirror with
        | .staging (.ctx k) =>
          (match groupFor s core (ctxAt s k).slices none with
            | none => s
            | some first =>
              let r := readyRange false p core false (ctxBlock s k) (ctxBytes (ctxAt s k).slices) (s, true)
              if !r.2 then r.1
              else
                let s1 := modCtx (restoreCtx r.1 k) k (fun c => { c with place := .mirror slot, first := first })
                blockError (modSlot s1 slot (fun l => { l with mirror := .staged (.ctx k) })) k .x (blockRanges s1 k))
        | .staging (.new id _ n) =>
          (match stagedTask s slot id, groupFor s core n l.ctx with
            | none, _ => modSlot s slot (fun l => { l with mirror := .empty, request := none })
            | some _, none => s
            | some _, some first => modSlot s slot (fun l => { l with mirror := .staged (.new id first n) }))
        | .empty =>
          (match l.request with
            | none => s
            | some r =>
              match taskAt s r.task with
              | none => modSlot s slot (fun l => { l with request := none })
              | some t => modSlot s slot (fun l => { l with mirror := .staging (.new r.task 0 t.rcd.slices) }))
        | _ => s)

/-- The PREEMPTED record (Table 17.5); `wait` says that the hart stood at a wait boundary. -/
def preempted (s : State) (slot : Nat) (c : Ctx) (r : Request) (wait : Bool) : EventRec :=
  eventHead s 0x44 c.part slot + c.x.pc.toNat * 2 ^ 128 + c.gang.toNat * 2 ^ 192 + c.prio.toNat * 2 ^ 256 +
    r.prio.toNat * 2 ^ 258 + wait.toNat * 2 ^ 260 + min r.cycles (2 ^ 32 - 1) * 2 ^ 288

/-- A sequencer's accesses before a swap come before those after its resume (R229): a fence over every class, with what the
sequencer has read ahead gone. -/
def orderSwap (s : State) (key core : Nat) (sd : Side) (q : Seq) : Seq :=
  { q with fences := q.fences.filter (fun f => pending s key sd core f.p (atHomes f.scope) f.cut) ++ [⟨3, 31, 0, s.ids⟩]
           ahead := [], late := [] }

/-- The staged work is what the pending request asked for. -/
def servesRequest (r : Request) : Incoming → Bool
  | .new id _ _ => r.task = id
  | .ctx _ => false

/-- The outgoing context leaves to the mirror bank, its read-ahead discarded (R258), and its spill begins. A swap that a
request caused is recorded (R364), as one at a loop boundary where the hart stands at a loop and a wait boundary at once (log
entry 93). -/
def swapOut (s : State) (slot : Nat) (key : Nat) (w : Incoming) : State :=
  let l := slotAt s slot
  let c := ctxAt s key
  let s1 := match l.request with
    | some r =>
      if servesRequest r w then
        logEvent s c.part 4 (preempted s slot c r (atWaitBoundary s key c && !atLoopBoundary s key c))
      else s
    | none => s
  let s2 := modCtx (forget s1 (fun a => match a with | .stream k _ => k = key | _ => false)) key (fun c =>
    { rewindStreams c with
      place := .mirror slot, lastSlot := slot, a := orderSwap s key c.core .a c.a, x := orderSwap s key c.core .x c.x })
  addPm (modSlot s2 slot (fun l => { l with ctx := none, mirror := .spilling key, request := none })) slot 13 1

/-- A `yield` completes when its context resumes (R266). -/
def wakeYield (q : Seq) : Seq :=
  match q.status with
  | .waiting (.yield _) => { q with status := .waiting (.satisfied none) }
  | _ => q

/-- A context enters the slot. -/
def swapIn (s : State) (slot key : Nat) : State :=
  let s1 := modCtx s key (fun c =>
    { c with place := .inSlot slot, lastSlot := slot, since := s.now, a := wakeYield c.a, x := wakeYield c.x })
  wdogReset (modSlot s1 slot (fun l => { l with ctx := some key })) slot

/-- What has been staged starts: the context, or the task's next iteration. -/
def enter (s : State) (slot : Nat) : Incoming → State
  | .ctx k => swapIn s slot k
  | .new id first _ =>
    match taskAt s id with
    | some t => withdrawAll (startIteration s id t slot first) id
    | none => s

/-- The outgoing context may leave (R90, R274, R364). -/
def mayLeave (s : State) (slot key : Nat) : Bool :=
  let c := ctxAt s key
  (slotAt s slot).fill.isNone && !s.mx.any (fun e => e.2.ctx = key) &&
    (atWaitBoundary s key c || ((slotAt s slot).request.isSome && atLoopBoundary s key c))

/-- What is staged may enter now: a new iteration of a task that is launched and has one left, and a context number. -/
def mayEnter (s : State) (slot : Nat) : Incoming → Bool
  | .ctx _ => true
  | .new id _ _ =>
    (match stagedTask s slot id with | some t => t.launched && taskReleased s t | none => false) &&
      decide ((clusterCtxs s (clusterOfSlot slot)).length < 1024)

/-- SWAP (R90). What can no longer enter leaves the mirror bank. -/
def execSwap (slot : Nat) (s : State) : Out :=
  .next (match partOfCluster s (clusterOfSlot slot), (slotAt s slot).mirror with
    | some p, .staged w =>
      if !partRuns s p then s
      else if (match w with | .new id _ _ => (stagedTask s slot id).isNone | _ => false) then
        modSlot s slot (fun l => { l with mirror := .empty, request := none })
      else if !mayEnter s slot w then s
      else
        match (slotAt s slot).ctx with
        | none => enter (modSlot s slot (fun l => { l with mirror := .empty })) slot w
        | some key => if mayLeave s slot key then enter (swapOut s slot key w) slot w else s
    | _, _ => s)

/-- SPILL_COMPLETE: the outgoing context is in its block; its slices and the mirror bank are free. -/
def execSpillComplete (slot : Nat) (s : State) : Out :=
  .next (match (slotAt s slot).mirror with
    | .spilling k =>
      let p := (ctxAt s k).part
      if (partAt s p).halted then s
      else
        let r := readyRange false p (ctxAt s k).core true (ctxBlock s k) (ctxBytes (ctxAt s k).slices) (s, true)
        if !r.2 then r.1
        else
          let s1 := modCtx (saveCtx r.1 k) k (fun c => { c with place := .out })
          modSlot s1 slot (fun l => { l with mirror := .empty })
    | _ => s)

/-! ### Completion (R270) -/

/-- Every iteration has ended, and every command and store of the gang has performed, with the stores that its harts had
read of others when they ended (R224). -/
def taskDone (s : State) (id : Nat) (t : Task) : Bool :=
  t.dispatched = t.rcd.count && t.ended = t.rcd.count && (t.rcd.count ≠ 0 || (taskReleased s t && t.launched)) &&
    !s.cmds.any (fun e => e.2.issuer.task = id) && !s.bankCmds.any (fun e => e.2.issuer.task = id) &&
    !s.wts.any (fun e => e.2.task = id) && !t.cuts.any (fun e => coreStoresBelow s e.1 e.2)

/-- The completion add on its way to the counter that `post` translated. -/
def completionAdd (id : Nat) (t : Task) : Wt :=
  { kind := .taskAdd (BitVec.ofNat 64 t.rcd.cinc), ctx := 0, task := id, iter := 0, slot := 0xFFF, side := .a,
    core := 96 * t.cluster, part := t.part, cls := .s, cmd := none, pa := t.counter.1, bytes := [], policy := t.counter.2,
    l1 := false, pc := t.recAddr, va := t.rcd.caddr, elem := 0, phase := .toHome, strm := none, alloc := none,
    own := false, op := id }

/-- TASK_COMPLETE: the scheduler makes the completion add; without one, the task completes at once. -/
def execTaskComplete (cluster task : Nat) (s : State) : Out :=
  .next (match runningTask s cluster task with
    | none => s
    | some t =>
      if t.addSent || !taskDone s task t then s
      else if t.rcd.cinc = 0 then finishTask s task
      else
        let s1 := setTask s task { t with addSent := true }
        let s2 := bumpIds { s1 with wts := tabPut s1.wts s1.ids (completionAdd task t) }
        wakeWaiters (performWt s2 s1.ids))

end Sys2Proof.Machine
end

