-- ==== Sys2Proof/Machine/Sha3.lean ====
section
/-!
DEFINITION. SHA3-512 of FIPS 202, which R371 to R373 name, and its SHAKE128 and SHAKE256, which FIPS 204 uses.
-/

namespace Sys2Proof.Machine

/-- The 24 round constants of Keccak-f[1600]. -/
def keccakRounds : List (BitVec 64) :=
  [0x0000000000000001, 0x0000000000008082, 0x800000000000808A, 0x8000000080008000, 0x000000000000808B,
   0x0000000080000001, 0x8000000080008081, 0x8000000000008009, 0x000000000000008A, 0x0000000000000088,
   0x0000000080008009, 0x000000008000000A] ++
  [0x000000008000808B, 0x800000000000008B, 0x8000000000008089, 0x8000000000008003, 0x8000000000008002,
   0x8000000000000080, 0x000000000000800A, 0x800000008000000A, 0x8000000080008081, 0x8000000000008080,
   0x0000000080000001, 0x8000000080008008]

/-- The rotation of lane x + 5y. -/
def keccakOffsets : List Nat :=
  [0, 1, 62, 28, 27, 36, 44, 6, 55, 20, 3, 10, 43, 25, 39, 41, 45, 15, 21, 8, 18, 2, 61, 56, 14]

/-- The 25 lanes, lane x + 5y at that place. -/
abbrev Lanes := List (BitVec 64)

def laneAt (l : Lanes) (i : Nat) : BitVec 64 := l.getD i 0

def keccakTheta (l : Lanes) : Lanes :=
  let c := (List.range 5).map (fun x =>
    laneAt l x ^^^ laneAt l (x + 5) ^^^ laneAt l (x + 10) ^^^ laneAt l (x + 15) ^^^ laneAt l (x + 20))
  let d := (List.range 5).map (fun x => laneAt c ((x + 4) % 5) ^^^ (laneAt c ((x + 1) % 5)).rotateLeft 1)
  l.zipIdx.map (fun e => e.1 ^^^ laneAt d (e.2 % 5))

/-- Rotation and the move of lane (x, y) to (y, 2x + 3y). -/
def keccakRhoPi (l : Lanes) : Lanes :=
  (List.range 25).map (fun i =>
    let x' := i % 5
    let y' := i / 5
    let x := (x' + 3 * y') % 5
    let j := x + 5 * x'
    (laneAt l j).rotateLeft (keccakOffsets.getD j 0))

def keccakChi (l : Lanes) : Lanes :=
  (List.range 25).map (fun i =>
    let y := i / 5 * 5
    laneAt l i ^^^ (~~~(laneAt l (y + (i + 1) % 5)) &&& laneAt l (y + (i + 2) % 5)))

def keccakRound (l : Lanes) (rc : BitVec 64) : Lanes :=
  match keccakChi (keccakRhoPi (keccakTheta l)) with
  | [] => []
  | a :: r => (a ^^^ rc) :: r

def keccakF (l : Lanes) : Lanes := keccakRounds.foldl keccakRound l

/-- A block of a rate's `r` bytes, lane by lane. -/
def absorb (r : Nat) (l : Lanes) (b : List Byte) : Lanes :=
  keccakF (l.zipIdx.map (fun e =>
    if 8 * e.2 < r then e.1 ^^^ BitVec.ofNat 64 (leNat ((b.drop (8 * e.2)).take 8)) else e.1))

def absorbAll (r : Nat) : Nat → Lanes → List Byte → Lanes
  | 0, l, _ => l
  | n + 1, l, b => absorbAll r n (absorb r l (b.take r)) (b.drop r)

/-- The message with its domain bits and padding. -/
def spongePad (r : Nat) (dom : Byte) (b : List Byte) : List Byte :=
  let k := r - b.length % r
  if k = 1 then b ++ [dom ||| 0x80] else b ++ [dom] ++ List.replicate (k - 2) 0 ++ [0x80]

/-- The output, a rate's bytes at a time. -/
def squeeze (r : Nat) : Nat → Lanes → List Byte
  | 0, _ => []
  | n + 1, l => (l.flatMap (fun w => leBytes 8 w.toNat)).take r ++ squeeze r n (keccakF l)

/-- `n` bytes of the sponge of a rate and a domain. -/
def sponge (r : Nat) (dom : Byte) (n : Nat) (b : List Byte) : List Byte :=
  let p := spongePad r dom b
  (squeeze r ((n + r - 1) / r) (absorbAll r (p.length / r) (List.replicate 25 0) p)).take n

/-- The 64-byte digest. -/
def sha3512 (b : List Byte) : List Byte := sponge 72 0x06 64 b

def shake128 (n : Nat) (b : List Byte) : List Byte := sponge 168 0x1F n b
def shake256 (n : Nat) (b : List Byte) : List Byte := sponge 136 0x1F n b

end Sys2Proof.Machine
end

