-- ==== Sys2Proof/Machine/MlDsa.lean ====
section
/-!
DEFINITION. ML-DSA-87 of FIPS 204, which R373 names: the key that a seed gives, and the signature of a message, without a
context string (log entry 17).
-/

namespace Sys2Proof.Machine

/-! ### Polynomials: 256 coefficients, reduced modulo q -/

abbrev Poly := List Int

def dsaQ : Int := 8380417

/-- The representative nearest to 0. -/
def centred (m a : Int) : Int := if m / 2 < a % m then a % m - m else a % m

def polyAdd (a b : Poly) : Poly := List.zipWith (fun x y => (x + y) % dsaQ) a b
def polySub (a b : Poly) : Poly := List.zipWith (fun x y => (x - y) % dsaQ) a b
def polyMul (a b : Poly) : Poly := List.zipWith (fun x y => x * y % dsaQ) a b
def polyZero : Poly := List.replicate 256 0

/-- The bits of a byte in reverse order. -/
def bitRev8 (i : Nat) : Nat := (List.range 8).foldl (fun n k => 2 * n + i / 2 ^ k % 2) 0

/-- The points of the transform: odd powers of 1753, a 512th root of unity. -/
def nttRoots : List Int := (List.range 256).map (fun i => 1753 ^ (2 * bitRev8 i + 1) % dsaQ)

/-- Their inverses. -/
def nttInverses : List Int := (List.range 256).map (fun i => 1753 ^ (511 - 2 * bitRev8 i) % dsaQ)

/-- `NTT`: the polynomial's values at the points. -/
def ntt (p : Poly) : Poly := nttRoots.map (fun x => p.foldr (fun a v => (a + x * v) % dsaQ) 0)

/-- Coefficients by their sums; `u` holds each value times the power of its point's inverse. 8347681 is the inverse of 256. -/
def nttSums : Nat → List Int → Poly
  | 0, _ => []
  | n + 1, u => u.sum * 8347681 % dsaQ :: nttSums n (polyMul u nttInverses)

/-- The inverse of `NTT`. -/
def nttInv (p : Poly) : Poly := nttSums 256 p

/-- A matrix of transforms applied to a vector of transforms. -/
def matVec (m : List (List Poly)) (v : List Poly) : List Poly :=
  m.map (fun r => nttInv ((List.zipWith polyMul r v).foldl polyAdd polyZero))

/-- A transform times a vector of transforms. -/
def scaleVec (c : Poly) (v : List Poly) : List Poly := v.map (fun p => nttInv (polyMul c p))

/-! ### Bytes -/

/-- `SimpleBitPack`: values of `w` bits each. -/
def packBits (w : Nat) (l : List Int) : List Byte :=
  leBytes (l.length * w / 8) (l.foldr (fun v n => v.toNat + 2 ^ w * n) 0)

/-- `BitPack` with the upper bound 2^19: the distances from it. -/
def packMask (p : Poly) : List Byte := packBits 20 (p.map (fun a => 2 ^ 19 - centred dsaQ a))

def seedBytes (n i : Nat) : List Byte := leBytes n i

/-! ### Sampling

A rejection sampler reads at most the bytes given here, and signing makes at most 1,000 attempts: the chance that they do not
suffice is below 2^−256. -/

/-- `RejNTTPoly`: three bytes a coefficient, values below q. -/
def rejNtt : List Byte → Poly
  | a :: b :: c :: r =>
    let z : Int := a.toNat + 2 ^ 8 * b.toNat + 2 ^ 16 * (c.toNat % 128)
    if z < dsaQ then z :: rejNtt r else rejNtt r
  | _ => []

/-- `ExpandA`: 8 rows of 7 transforms. -/
def expandA (rho : List Byte) : List (List Poly) :=
  (List.range 8).map (fun i => (List.range 7).map (fun j =>
    (rejNtt (shake128 1176 (rho ++ seedBytes 1 j ++ seedBytes 1 i))).take 256))

/-- `RejBoundedPoly` for η = 2: each half byte below 15 gives a coefficient. -/
def rejBounded (b : List Byte) : Poly :=
  ((b.flatMap (fun z => [z.toNat % 16, z.toNat / 16])).filter (fun n => n < 15)).map (fun n => 2 - ((n % 5 : Nat) : Int))

def smallPoly (rho : List Byte) (r : Nat) : Poly := (rejBounded (shake256 544 (rho ++ seedBytes 2 r))).take 256

/-- `ExpandMask`. -/
def expandMask (rho : List Byte) (k : Nat) : List Poly :=
  (List.range 7).map (fun r =>
    let v := leNat (shake256 640 (rho ++ seedBytes 2 (k + r)))
    (List.range 256).map (fun i => 2 ^ 19 - ((bitsOf v (20 * i) 20 : Nat) : Int)))

/-- Steps of `SampleInBall`, at the places given. -/
def ballSteps (signs : Nat) : List Nat → List Byte → Poly → Poly
  | [], _, c => c
  | i :: r, b, c =>
    match b.dropWhile (fun j => i < j.toNat) with
    | [] => c
    | j :: b1 => ballSteps signs r b1 ((c.set i (c.getD j.toNat 0)).set j.toNat (if bitsOf signs (i - 196) 1 = 1 then -1 else 1))

/-- `SampleInBall` for τ = 60. -/
def sampleInBall (seed : List Byte) : Poly :=
  let b := shake256 272 seed
  ballSteps (leNat (b.take 8)) ((List.range 60).map (· + 196)) (b.drop 8) polyZero

/-! ### Rounding -/

/-- `Power2Round`, d = 13: the low part. -/
def lowPower (a : Int) : Int := centred (2 ^ 13) (a % dsaQ)

/-- `Decompose`, γ2 = 261,888: the high and the low part. -/
def decompose (a : Int) : Int × Int :=
  let r := a % dsaQ
  let low := centred 523776 r
  if r - low = dsaQ - 1 then (0, low - 1) else ((r - low) / 523776, low)

/-- The largest distance of a coefficient from 0 is below a bound. -/
def normBelow (bound : Int) (v : List Poly) : Bool := v.all (fun p => p.all (fun a => decide ((centred dsaQ a).natAbs < bound)))

/-! ### Keys (FIPS 204, Algorithm 6) -/

/-- What a private key holds, in the transformed domain where it is used so, with the public key. -/
structure SigningKey where
  a : List (List Poly)
  seed : List Byte
  tr : List Byte
  s1 : List Poly
  s2 : List Poly
  t0 : List Poly
  pk : List Byte

/-- The key that a seed of 32 bytes gives. -/
def keyGen (xi : List Byte) : SigningKey :=
  let h := shake256 128 (xi ++ [8, 7])
  let rho := h.take 32
  let small := (List.range 15).map (smallPoly ((h.drop 32).take 64))
  let s1 := (small.take 7).map ntt
  let a := expandA rho
  let t := List.zipWith polyAdd (matVec a s1) (small.drop 7)
  let pk := rho ++ t.flatMap (fun p => packBits 10 (p.map (fun x => (x - lowPower x) / 2 ^ 13)))
  { a := a, seed := h.drop 96, tr := shake256 64 pk, s1 := s1, s2 := (small.drop 7).map ntt
    t0 := t.map (fun p => ntt (p.map lowPower)), pk := pk }

/-! ### Signing (FIPS 204, Algorithms 2 and 7) -/

/-- `HintBitPack`, ω = 75: the places of the ones, then the count after each polynomial. -/
def packHints (h : List (List Bool)) : List Byte :=
  let ones := h.map (fun p => (List.range 256).filter (fun j => p.getD j false))
  let idx := ones.flatten
  (idx ++ List.replicate (75 - idx.length) 0 ++
    (List.range 8).map (fun i => (ones.take (i + 1)).flatten.length)).map (BitVec.ofNat 8)

/-- One attempt: the signature, or none where a bound rejects it. -/
def signAttempt (k : SigningKey) (mu rho : List Byte) (kappa : Nat) : Option (List Byte) :=
  let y := expandMask rho kappa
  let w := matVec k.a (y.map ntt)
  let ct := shake256 64 (mu ++ w.flatMap (fun p => packBits 4 (p.map (fun x => (decompose x).1))))
  let c := ntt (sampleInBall ct)
  let z := List.zipWith polyAdd y (scaleVec c k.s1)
  let r := List.zipWith polySub w (scaleVec c k.s2)
  let ct0 := scaleVec c k.t0
  let hints := List.zipWith (fun p q => List.zipWith (fun x d =>
    decide ((decompose (x + d)).1 ≠ (decompose x).1)) p q) r ct0
  if normBelow (2 ^ 19 - 120) z && r.all (fun p => p.all (fun x => decide ((decompose x).2.natAbs < 261888 - 120))) &&
      normBelow 261888 ct0 && decide (hints.flatten.countP id ≤ 75) then
    some (ct ++ z.flatMap packMask ++ packHints hints)
  else none

/-- The first attempt that no bound rejects. -/
def signLoop (k : SigningKey) (mu rho : List Byte) : Nat → Nat → List Byte
  | 0, _ => []
  | n + 1, kappa =>
    match signAttempt k mu rho kappa with
    | some b => b
    | none => signLoop k mu rho n (kappa + 7)

/-- The signature of a message: 4,627 bytes. -/
def signMessage (k : SigningKey) (rnd msg : List Byte) : List Byte :=
  let mu := shake256 64 (k.tr ++ [0, 0] ++ msg)
  signLoop k mu (shake256 64 (k.seed ++ rnd ++ mu)) 1000 0

end Sys2Proof.Machine
end

