-- ==== Sys2Proof/Machine/Device.lean ====
section
/-!
DEFINITION. The device in its system: partitions (R366 to R368), service levels (R369, R370), measured boot and attestation
(R371 to R373), management messages (R375), telemetry and thermal limits (R380 to R385), and the passage of time (R343,
R351, R363).
-/

namespace Sys2Proof.Machine

/-- A completion message of Azver (Table 11.6). -/
def sendCmp (s : State) (part tag status : Nat) : State := sendMsg s (hostMsg 0x0C part tag 0 status false [])

/-- Azver runs: the package has booted and has power. -/
def azverRuns (s : State) : Bool := s.booted && s.powered

/-! ### Partition configuration (R366 to R368, Table 18.1) -/

/-- The partition a record describes, with the capacity of its event log. -/
def partOfRecord (h cap : Nat) : Part :=
  { Part.reset with
    configured := true, clus := BitVec.ofNat 16 (bitsOf h 16 16), gran := BitVec.ofNat 512 (bitsOf h 320 512)
    breg := Vector.ofFn (fun i => (bitsOf h (832 + 32 * i.val) 16, bitsOf h (848 + 32 * i.val) 16))
    root := BitVec.ofNat 64 (bitsOf h 64 64), stbase := BitVec.ofNat 64 (bitsOf h 256 64)
    ptroot := BitVec.ofNat 64 (bitsOf h 128 64), evlog := BitVec.ofNat 64 (bitsOf h 192 64), evcap := cap
    wdog := BitVec.ofNat 32 (bitsOf h 1088 32), chain := BitVec.ofNat 5 (bitsOf h 1120 5) }

def recordReserved (h : Nat) : Bool :=
  decide (2 ≤ bitsOf h 4 2) || bitsOf h 6 10 ≠ 0 || bitsOf h 32 32 ≠ 0 || bitsOf h 1125 155 ≠ 0

/-- A byte range of device memory that lies wholly in held granules. -/
def inHeld (q : Part) (a n : Nat) : Bool :=
  decide (a + n ≤ deviceEnd) &&
    (List.range ((a + n - 1) / 2 ^ 30 + 1 - a / 2 ^ 30)).all (fun i => q.gran.getLsbD (a / 2 ^ 30 + i))

/-- A bank region's bounds and rows (R367). -/
def regionOk (q : Part) (r : Nat × Nat) : Bool :=
  r.1 % 64 = 0 && r.2 % 64 = 0 && (r.2 = 0 || decide (r.1 < r.2)) &&
    (List.range (r.2 / 64 - r.1 / 64)).all (fun i => q.gran.getLsbD (r.1 / 64 + i))

/-- Capacity of an event log (R277). -/
def evCapOk (cap : Nat) : Bool := [64, 128, 256, 512, 1024, 2048, 4096, 8192, 16384, 32768, 65536].contains cap

/-- The root record of a partition. -/
def rootRec (s : State) (q : Part) : LnRec := recOf (memNat s.mem q.root.toNat 128)

/-- What R367 asks of a configuration, the counter's translation apart. -/
def configOk (s : State) (part : Nat) (q : Part) (word1 : Nat) : Bool :=
  !s.parts.any (fun e => e.2.configured && (e.1 = part || e.2.clus &&& q.clus ≠ 0 || e.2.gran &&& q.gran ≠ 0)) &&
    q.clus ≠ 0 && q.breg.toList.all (regionOk q) &&
    q.ptroot.toNat % 4096 = 0 && q.evlog.toNat % 64 = 0 && q.stbase.toNat % 256 = 0 && q.root.toNat % 128 = 0 &&
    inHeld q q.ptroot.toNat 1 && inHeld q q.root.toNat 128 && inHeld q q.stbase.toNat stopTableBytes &&
    evCapOk (bitsOf word1 0 32) && bitsOf word1 32 32 = 0 && inHeld q q.evlog.toNat (64 + 64 * bitsOf word1 0 32) &&
    !poisoned s q.evlog.toNat && !poisoned s q.root.toNat && !recMalformed (rootRec s q)

/-- The lowest-numbered cluster of a partition. -/
def firstCluster (q : Part) : Nat := (partClusters q).headD 0

/-- The root's completion counter, translated through the new page tables, and the state after the walk; none where it
faults. The walk may have to wait (R249, R303). -/
def rootCounter (s : State) (part : Nat) (q : Part) : State × Except NoHit (Option (Nat × WPolicy)) :=
  let r := rootRec s q
  if r.cinc = 0 then (s, .ok (some (0, .update)))
  else
    let x := checkBy (setPart s part q) .home [] part (96 * firstCluster q) none r.caddr.toNat 0 needRW
    let s1 := { x.1 with parts := s.parts }
    match x.2 with
    | .ok h => (s1, .ok (match h.tgt with | .scratch _ => none | t => some (targetPa t, h.policy)))
    | .error (.fault _) => (s1, .ok none)
    | .error (.wait g) => (s1, .error (.wait g))

/-- The scratchpads of the clusters are zero (R169). -/
def clearScratchpads (s : State) (q : Part) : State :=
  let mine (a : Nat) : Bool :=
    decide (scratchBase ≤ a) && decide (a < scratchBase + 0x60000000) &&
      q.clus.getLsbD (clusterOfCore ((a - scratchBase) / 0x100000))
  { s with mem := s.mem.filter (fun c => !mine c.1), poison := s.poison.filter (fun l => !mine (128 * l)) }

/-- The words held per slot start at 0 again (R79). -/
def clearSlots (s : State) (q : Part) : State :=
  { s with slots := s.slots.filter (fun e => !q.clus.getLsbD (clusterOfSlot e.1)) }

/-- M3 := SHA3-512 (M3 ‖ the record) (R372). -/
def extendM3 (s : State) (h : Nat) : State :=
  { s with m3 := BitVec.ofNat 512 (leNat (sha3512 (leBytes 64 s.m3.toNat ++ leBytes 160 h))) }

/-- Op 0 of PartCfg: the order of R368. -/
def configure (s : State) (h : Nat) : State × Bool :=
  let part := bitsOf h 0 4
  let q0 := partOfRecord h 0
  let r := readyRange false part 0 false q0.root.toNat 128 (readyRange false part 0 false q0.evlog.toNat 64 (s, true))
  if !r.2 then (r.1, false)
  else
    let s0 := r.1
    let word1 := memNat s0.mem (q0.evlog.toNat + 8) 8
    let q := { q0 with evcap := bitsOf word1 0 32 }
    if !(s0.svc = 1 || s0.svc = 2) || !configOk s0 part q word1 then (s0, true)
    else
      let x := rootCounter s0 part q
      match x.2, poolEntry s0 (firstCluster q) (rootRec s0 q).prio with
      | .error (.wait g), _ => (g s0, false)
      | .ok (some pa), some e =>
        let s1 := setPart (clearSlots (clearScratchpads x.1 q) q) part q
        (acceptTask (extendM3 s1 h) part (firstCluster q) (rootRec s0 q) q.root pa e 0 0, true)
      | _, _ => (x.1, true)

/-- Op 1: the halted partition's contexts, handles, clusters, granules and regions go. -/
def tearDown (s : State) (p : Nat) : State :=
  let q := partAt s p
  let mine (slot : Nat) : Bool := q.clus.getLsbD (clusterOfSlot slot)
  let ctxGone (k : Nat) : Bool := (ctxAt s k).part = p
  let s0 := ((s.cmds.filter (fun e => e.2.issuer.part = p)).map Prod.fst).foldl disown
    (forget s (fun a => ((askerHome s a).map (fun h => decide (h.1 = p))).getD false))
  { s0 with
    ctxs := s.ctxs.filter (fun e => e.2.part ≠ p)
    tasks := s.tasks.filter (fun e => e.2.part ≠ p)
    cmds := s.cmds.filter (fun e => e.2.issuer.part ≠ p)
    bankCmds := s.bankCmds.filter (fun e => e.2.issuer.part ≠ p)
    wts := s.wts.filter (fun e => e.2.part ≠ p)
    mx := s.mx.filter (fun e => !ctxGone e.2.ctx)
    waiters := s.waiters.filter (fun w => w.part ≠ p)
    collIn := s.collIn.filter (fun c => c.part ≠ p)
    detached := s.detached.filter (fun e => !q.clus.getLsbD e.1)
    tlb := s.tlb.map (fun e => (e.1, e.2.filter (fun t => t.part ≠ p)))
    evq := s.evq.filter (fun e => e.1 ≠ p)
    blockq := s.blockq.filter (fun e => e.part ≠ p)
    slots := s.slots.map (fun e =>
      (e.1, if mine e.1 then { e.2 with ctx := none, mirror := .empty, request := none, fill := none } else e.2))
    parts := tabDel s.parts p }

/-- PARTCFG (R367, R368): accepted, or denied with nothing configured. -/
def execPartCfg (rec : BitVec 1280) (tag : Nat) (s : State) : Out :=
  .next (let h := rec.toNat
    let p := bitsOf h 0 4
    if !azverRuns s then s
    else if recordReserved h then sendCmp s p tag 1
    else if bitsOf h 4 2 = 1 then
      (if (partAt s p).halted then sendCmp (tearDown (extendM3 s h) p) p tag 0 else sendCmp s p tag 1)
    else
      let r := configure s h
      if !r.2 then r.1
      else sendCmp r.1 p tag (if (partAt r.1 p).configured && !(partAt s p).configured then 0 else 1))

/-! ### Boot, service levels and attestation (R369 to R373) -/

/-- The SHA3-512 digest of an image as a measurement register holds it (R371). -/
def measured (image : List Byte) : BitVec 512 := BitVec.ofNat 512 (leNat (sha3512 image))

/-- The image of the bank kernels' ROM: its 512 words (R292, R296; log entry 83). -/
def romImage : List Byte := (List.range 512).flatMap (fun i => leBytes 4 (romWords.getD i 0).toNat)

/-- POWER_ON: a package without power, or one that has not booted, starts from its reset state. The event gives the images
that the flash holds of the management firmware and of the scheduler microcode, which are measured with the ROM image, and
the time base and the node number that the management path sets (R376, log entry 48). What else the management path has set
stays; the 1 ms windows are those of the time base. -/
def execPowerOn (firmware microcode : List Byte) (node : BitVec 11) (time : Word) (s : State) : Out :=
  .next (if azverRuns s then s
    else
      { State.reset with
        booted := true, powered := true, m0 := measured firmware, m1 := measured microcode, m2 := measured romImage
        now := time.toNat, alertWin := time.toNat / 1000000, node := node, domain := s.domain, routes := s.routes
        clockPorts := s.clockPorts, ethAht := s.ethAht, ethBft := s.ethBft
        dies := s.dies.map (fun e => (e.1, { Die.reset with rails := Vector.ofFn (fun i =>
          { Rail.reset with table := (e.2.rails[i.val]'i.isLt).table }) }))
        agenda := s.agenda, turnNo := s.turnNo, cur := s.cur, free := s.free, ids := s.ids })

/-- A rail is to run at another entry of its table. -/
def setEntry (d : Die) (rail : Nat) (e : BitVec 3) : Die :=
  let r := d.rails.getD rail Rail.reset
  { d with rails := d.rails.setIfInBounds rail (Rail.mk r.table e r.freq r.volt) }

/-- The network runs at a step: VNOC's rail at the entry of its table that has this frequency step, or else at the entry of
that number (R380; log entry 95). -/
def setNoc (d : Die) (step : Nat) : Die :=
  let t := (d.rails.getD 3 Rail.reset).table
  setEntry { d with noc := step } 3
    (BitVec.ofNat 3 (((List.range 8).find? (fun k => (t.getD k ⟨0, Vector.replicate 4 0⟩).freq = step)).getD step))

/-- The rails of the four dies at a service level: the entries are the management path's, but VNOC's, whose step is 1 when a
die leaves level 0 (R370, R379, R380; log entry 95). -/
def raiseRails (level : Nat) (rails : List Nat) (s : State) (die : Nat) : State :=
  modDie s die (fun d => setNoc (rails.foldl (fun d i => setEntry d i (Config.railEntry level i)) d) (max d.noc 1))

/-- A rail moves towards its operating point, one move at a time: where the frequency rises the voltage goes first, where it
falls the frequency does (R379). -/
def railMove (band : Nat) (r : Rail) : Rail :=
  let e := r.table[r.entry.toNat]
  let v := e.volts.getD band 0
  if r.freq < e.freq then (if r.volt = v then { r with freq := e.freq } else { r with volt := v })
  else if e.freq < r.freq then { r with freq := e.freq }
  else { r with volt := v }

def railsMove (d : Die) : Die := { d with rails := Vector.ofFn (fun i => railMove d.jband (d.rails[i.val]'i.isLt)) }

/-- What the management path sets (R375 to R377, R379). -/
def manage (s : State) : Managed → State
  | .domain nodes => { s with domain := nodes }
  | .route node port => if node < 2048 && port < 8 then { s with routes := tabPut s.routes node port } else s
  | .clockPorts ports => { s with clockPorts := ports.filter (fun p => decide (p < 9)) }
  | .ethertypes aht bft => { s with ethAht := aht, ethBft := bft }
  | .opEntry die rail entry freq v0 v1 v2 v3 =>
    if 4 ≤ die || 5 ≤ rail || 8 ≤ freq then s
    else
      modDie s die (fun d =>
        let r := d.rails.getD rail Rail.reset
        let t := r.table.setIfInBounds entry.toNat ⟨freq, #v[v0, v1, v2, v3]⟩
        { d with rails := d.rails.setIfInBounds rail (Rail.mk t r.entry r.freq r.volt) })

/-- A rail runs at its operating point (R379). -/
def railSettled (band : Nat) (r : Rail) : Bool :=
  let e := r.table[r.entry.toNat]
  decide (r.freq = e.freq) && decide (r.volt = e.volts.getD band 0)

/-- Rails of the four dies run at their operating points. -/
def railsSettled (s : State) (rails : List Nat) : Bool :=
  [0, 1, 2, 3].all (fun d => rails.all (fun i => railSettled (dieAt s d).jband ((dieAt s d).rails.getD i Rail.reset)))

/-- SERVICE_LEVEL_CHANGE (R370): the rails are raised, and once they run at the new level's operating points the level is
written and announced to the host; until then the event comes again. -/
def execServiceLevelChange (level : BitVec 2) (s : State) : Out :=
  .next (if !azverRuns s || decide (level.toNat ≠ s.svc.toNat + 1) || level = 3 then s
    else
      let rails := if level = 1 then [0, 1, 2, 4] else [0, 1, 4]
      let s1 := [0, 1, 2, 3].foldl (raiseRails level.toNat rails) s
      if railsSettled s1 rails then mgmtEvent { s1 with svc := level } 3 level.toNat else s1)

/-- The device identity key (R373). -/
def identityKey : SigningKey := keyGen (leBytes 32 Config.identitySeed.toNat)

/-- The signed part of the report (Table 18.3). -/
def reportBytes (s : State) (nonce : BitVec 512) : List Byte :=
  leBytes 8 (1 + s.svc.toNat * 2 ^ 8 + s.node.toNat * 2 ^ 10) ++ leBytes 8 s.now ++ leBytes 64 nonce.toNat ++
    leBytes 64 s.m0.toNat ++ leBytes 64 s.m1.toNat ++ leBytes 64 s.m2.toNat ++ leBytes 64 s.m3.toNat ++
    sha3512 identityKey.pk ++ leBytes 16 Config.serial.toNat ++ leBytes 16 0

/-- ATTREQ: the report, signed (R373). -/
def execAttReq (nonce : BitVec 512) (k : Bool) (tag : Nat) (s : State) : Out :=
  .next (if !azverRuns s then s
    else
      let r := reportBytes s nonce
      let sig := signMessage identityKey (leBytes 32 (Config.signRandom s.free).toNat) r
      sendMsg { s with free := s.free + 1 }
        (linesOfMsg 0x11 0 tag 0 0 (r ++ sig ++ (if k then identityKey.pk else []))))

/-! ### State words written by the management path (R375, Table 4.2) -/

/-- `sset` of a word that only the management path writes; none where there is no such word, partition or die. -/
def writeManaged (s : State) (num target : Nat) (v : Word) : Option State :=
  let part (f : Part → Part) : Option State := if (partAt s target).configured then some (modPart s target f) else none
  let die (f : Die → Die) : Option State := if target < 4 then some (modDie s target f) else none
  match num with
  | 0x020 => part (fun q => { q with chain := v.truncate 5 })
  | 0x030 => part (fun q => { q with ptroot := v })
  | 0x034 => part (fun q => { q with evlog := v })
  | 0x050 => die (fun d => { d with bankmax := v.truncate 13 })
  | 0x051 => die (fun d => { d with bkidle := v.truncate 4 })
  | 0x052 => some { s with actalert := v.truncate 16 }
  | 0x053 => some { s with actmgmt := v.truncate 8 }
  | 0x060 => part (fun q => { q with wdog := v.truncate 32 })
  | _ => none

/-- SWWRITE. -/
def execSwWrite (num : BitVec 12) (target : Nat) (value : Word) (tag : Nat) (s : State) : Out :=
  .next (if !azverRuns s then s
    else
      match writeManaged s num.toNat target value with
      | some t => sendCmp t 0 tag 0
      | none => sendCmp s 0 tag 1)

/-! ### Telemetry and thermal limits (R380 to R385) -/

/-- The telemetry response (Table 18.8). -/
def telemetry (s : State) (readings : List Byte) : List Byte :=
  let dies := [0, 1, 2, 3].map (dieAt s)
  (List.range 164).map (fun i => readings.getD i 0) ++
    dies.flatMap (fun d => d.rails.toList.map (fun r => BitVec.ofNat 8 r.entry.toNat)) ++
    dies.map (fun d => BitVec.ofNat 8 (d.throttle + 16 * d.band)) ++ [0, 0, 0, 0] ++
    (List.range 4).flatMap (fun d => leBytes 4 (Config.power s.free d).toNat)

/-- TELREQ: the sensors' readings come with the event; the power drawn is a free value. -/
def execTelReq (readings : List Byte) (tag : Nat) (s : State) : Out :=
  .next (if !azverRuns s then s
    else
      let s1 := sendMsg s (linesOfMsg 0x18 0 tag 0 0 (telemetry s readings))
      { s1 with free := s1.free + 1 })

/-- A THERMAL_STEP record (Table 18.10), but its partition. -/
def thermalRecord (s : State) (p die kind old new sensor : Nat) (temp : Int) : EventRec :=
  eventHead s 0x43 p 0xFFF + die * 2 ^ 128 + kind * 2 ^ 130 + old * 2 ^ 132 + new * 2 ^ 135 + sensor * 2 ^ 138 +
    (BitVec.ofInt 16 temp).toNat * 2 ^ 144

/-- A change of a step or band, or a trip: to the logs of the partitions with a cluster on the die, and to the host. -/
def thermalStep (s : State) (die kind old new sensor : Nat) (temp : Int) : State :=
  let concerned (q : Part) : Bool := q.configured && (partClusters q).any (fun c => dieOfCluster c = die)
  let s1 := ((s.parts.filter (fun e => concerned e.2)).map Prod.fst).foldl (fun t p =>
    logEvent t p 3 (thermalRecord s p die kind old new sensor temp)) s
  mgmtEvent s1 1 (thermalRecord s 0 die kind old new sensor temp)

/-- The throttle step after a sample (R383); temperatures are in 1/16 °C. -/
def throttleNext (k : Nat) (temp : Int) : Nat :=
  if 1760 ≤ temp then min (k + 1) 6 else if temp ≤ 1712 then k - 1 else k

/-- A temperature band after a sample, by the upper edges of the bands but the last: one band at a time, with 2 °C hysteresis
downwards (R384). -/
def bandStep (edges : List Int) (b : Nat) (temp : Int) : Nat :=
  if b < edges.length && decide (edges.getD b 0 < temp) then b + 1
  else if b ≠ 0 && decide (temp ≤ edges.getD (b - 1) 0 - 32) then b - 1 else b

/-- The upper edges of the bank bands and of the junction bands (Table 18.9). -/
def bankEdges : List Int := [1440, 1520, 1600, 1680]
def junctionEdges : List Int := [1040, 1360, 1600]

/-- THROTTLE_SAMPLE: the hottest junction sensor of a die, which also moves the junction band (R384); at 120 °C the power
goes. -/
def execThrottleSample (die : Nat) (sensor : BitVec 4) (temp : Int) (s : State) : Out :=
  .next (if 4 ≤ die || !azverRuns s then s
    else
      let s := modDie s die (fun d => { d with jband := bandStep junctionEdges d.jband temp })
      let k := (dieAt s die).throttle
      let n := throttleNext k temp
      let s1 := if n = k then s
        else thermalStep (modDie s die (fun d => { d with throttle := n })) die 0 k n sensor.toNat temp
      if 1920 ≤ temp then { thermalStep s1 die 2 n n sensor.toNat temp with powered := false } else s1)

/-- The bank band after a sample (R384). -/
def bandNext (b : Nat) (temp : Int) : Nat := bandStep bankEdges b temp

/-- BANK_BAND_SAMPLE: the hotter base die of a die's two stacks. -/
def execBankBandSample (die : Nat) (sensor : BitVec 6) (temp : Int) (s : State) : Out :=
  .next (if 4 ≤ die || !azverRuns s then s
    else
      let b := (dieAt s die).band
      let n := bandNext b temp
      if n = b then s
      else thermalStep (modDie s die (fun d => { d with band := n })) die 1 b n sensor.toNat temp)

/-- The network step after a sample of the router queues' occupancy, in 1/1,000 (R380). -/
def nocNext (step occ : Nat) : Nat :=
  if 500 < occ then min (step + 1) 7 else if occ < 125 then max (step - 1) 1 else step

/-- NOC_CLOCK_SAMPLE. -/
def execNocClockSample (die occ : Nat) (s : State) : Out :=
  .next (if 4 ≤ die || !azverRuns s || s.svc = 0 then s
    else modDie s die (fun d => setNoc d (nocNext d.noc occ)))

/-! ### The passage of time -/

/-- A failed link lies on the way to the lines of a partition's next event, or to a copy or owner of them (R8, R378). -/
def eventCut (s : State) (p : Nat) : Bool :=
  (partAt s p).configured && (eventLines s p).any (fun l => ownCut s (partCore s p) l true)

/-- A line of an event made ready: focused, taken back from its owner, given up by the host. -/
def readyEventLine (p : Nat) (s : State) (l : Nat) : State :=
  let t := recallLocal (focus s l none) l
  if hostOwns t l || hostShares t l then askHost t .home l p else t

/-- The first event record that waits for its log's lines (R164, R249, R277), those behind a failed link apart (R8). -/
def flushEvent (s : State) : State :=
  match s.evq.find? (fun e => !eventCut s e.1) with
  | none => s
  | some (p, r) =>
    let rest := s.evq.erase (p, r)
    if !(partAt s p).configured then { s with evq := rest }
    else
      let t := (eventLines s p).foldl (readyEventLine p) s
      if eventReady t p then { writeEvent t p r with evq := rest } else t

/-- `c` cycles of one hart slot (Table 16.5, R363). -/
def slotCycles (s : State) (c : Nat) (l : Slot) : Slot :=
  match l.ctx with
  | none => l
  | some key =>
    let x := ctxAt s key
    let seqs := [x.a, x.x]
    let add (l : Slot) (k m : Nat) : Slot := { l with pm := l.pm.setIfInBounds k (l.pm.getD k 0 + BitVec.ofNat 64 m) }
    let l1 := add l 0 c
    let stalls (w : StallWhy) : Nat :=
      if (partAt s x.part).halted then 0 else seqs.countP (fun q => decide (q.status = .running) && decide (q.why = w))
    let l2 := add l1 6 (c * stalls .queue)
    let l3 := add l2 7 (c * stalls .tile)
    let l4 := add l3 14 (c * seqs.countP seqWaits)
    let counts := !(partAt s x.part).halted && !atWaitBoundary s key x
    { l4 with
      wdogCount := if counts then l4.wdogCount + c else l4.wdogCount
      request := l4.request.map (fun r => { r with cycles := r.cycles + c }) }

/-- Time passes: the time base by `ns` at its present rate, the main clock by `cycles`. The channels serve what has come,
waiting writes of the device are tried again, the rails move, and waiters of other packages are evaluated. -/
def tick (s : State) (ns cycles : Nat) : State :=
  let s1 := { s with
    now := s.now + (ns * (1000000 + s.rate) / 1000000).toNat
    slots := s.slots.map (fun e => (e.1, slotCycles s cycles e.2))
    dies := s.dies.map (fun e => (e.1, railsMove e.2))
    tasks := s.tasks.map (fun e =>
      (e.1, if dispatchable s e.2 && e.2.prio ≠ 3 then { e.2 with readyNs := e.2.readyNs + ns } else e.2)) }
  wakeWaiters (flushEvent (flushBlocks (channelWork (rollAlerts s1))))

end Sys2Proof.Machine
end

