-- ==== Sys2Proof/Machine/Fetch.lean ====
section
/-!
DEFINITION. Fetching: when a sequencer may issue, the word at its PC (R46, R58, R228), and the two faults of a word that
is no instruction: ILLEGAL_OPCODE and those of the fetch itself.
-/

namespace Sys2Proof.Machine

/-- A sequencer of a hart slot issues on its turn: its context is there and has not ended, idled or faulted and is not in the
wait of `hinv` (R320), its partition is not halted, no register-cache miss holds the hart (R84), and it does not stand at a
loop boundary while a pre-emption request is pending (R107, R364; log entry 20). -/
def mayIssue (s : State) (slot : Nat) (sd : Side) : Bool :=
  let l := slotAt s slot
  match l.ctx with
  | none => false
  | some key =>
    let c := ctxAt s key
    let q := seqOf c sd
    q.status ≠ .idle && q.status ≠ .done && q.status ≠ .faulted && !isPinWait q && !(partAt s c.part).halted &&
      l.fill.isNone && !(q.atBound && l.request.isSome)

/-- Who asks for a word of the host window or of another package. -/
def fetchAsker (s : State) : Asker := .fetch (curKey s) s.cur.side

/-- The host or the other package is asked once for the word. -/
def askWord (code addr n link : Nat) : Res (State × Word) :=
  .error (.wait (fun t =>
    if hasAsk t (fun a => a.who = fetchAsker t && a.addr = addr && a.code = code) then t
    else sendAsk t (fetchAsker t) code addr n link (curPart t) []))

/-- The word from an answer, `off` bytes into it. -/
def answeredWord (s : State) (a : Answer) (va : Word) (addr off : Nat) : Res (State × Word) :=
  if a.denied then .error (.fault (accessDenied va.toNat 0))
  else if a.ps then readFault va.toNat 0 needX (lineOf addr)
  else .ok (s, BitVec.ofNat 64 (leNat (listSlice a.bytes off 8)))

/-- A word of device memory at its home; `s1` is the state after the walk. -/
def homeWord (s s1 : State) (pc : Word) (pa : Nat) (h : Hit) : Res (State × Word) :=
  match homeHolds s (fetchAsker s) (curPart s) (curCore s) (lineOf pa) false with
  | some g => .error (.wait g)
  | none =>
    let s2 := noteRead (useSlice (homeLine s1 (lineOf pa) (some s.cur.slot)) (lineOf pa)
      (if h.tgt.isOwn then none else leafKeeps h.leaf) (leafCMP h.leaf)) (lineOf pa) walkerAgent
    if poisoned s2 pa then readFault pc.toNat 0 needX (lineOf pa) else .ok (s2, memWord s2.mem pa)

/-- The word at the PC of the sequencer at work: translated with X needed, then read at its home (log entry 9). A fence
with I in Q holds the fetch back (R206). -/
def fetchWord (s : State) : Res (State × Word) := do
  let pc := (curSeq s).pc
  if fenceBlocks s .i then .error (.wait id)
  else
    let (s1, h) ← access s pc 0 needX
    match h.tgt with
    | .device pa => homeWord s s1 pc pa h
    | .own pa => homeWord s s1 pc pa h
    | .scratch pa => if poisoned s1 pa then readFault pc.toNat 0 needX (lineOf pa) else .ok (s1, memWord s1.mem pa)
    | .host pa =>
      match answerOf s (fetchAsker s) (128 * lineOf pa) with
      | some a => answeredWord s1 a pc pa (pa % 128)
      | none => if cutOff s (curCore s) h.tgt then .error (.wait id) else askWord 0x03 (128 * lineOf pa) 8 0
    | .fabric node _ =>
      match answerOf s (fetchAsker s) (targetPa h.tgt) with
      | some a => answeredWord s1 a pc (targetPa h.tgt) 0
      | none => if cutOff s (curCore s) h.tgt then .error (.wait id) else askWord 0x01 (targetPa h.tgt) 8 (routeOf s node)
    | .nothing => .error (.fault (accessDenied pc.toNat 0))

/-- An instruction behind which a load may still perform (R220; log entry 4): of the scalar and vector arithmetic, the branches,
the scalar accesses, and the vector accesses with a base. -/
def passesLoads (i : Instr) : Bool :=
  match i with
  | .nop => true
  | .loop .. => true
  | _ =>
    match i.kind with
    | .word op => [0x08, 0x09, 0x0a, 0x0b, 0x10, 0x11, 0x20, 0x21, 0x22, 0x23, 0x28, 0x41, 0x42, 0x43, 0x44, 0x46].contains op
    | _ => false

/-- An instruction that passes loads names neither what this one writes nor a queue. -/
def staysLate (i : Instr) (e : LateLoad) : Bool :=
  passesLoads i && i.specs.all (fun sp =>
    match sp with
    | .q _ | .w _ | .bq => false
    | .x _ r => (match e.dst with | .x _ d => decide (r ≠ d) | _ => true)
    | .l k => decide (k.toNat ≠ e.back)
    | sp => decide (sp ≠ e.dst))

/-- Before an instruction, the loads that do not stay late have performed. -/
def keepLate (s : State) (i : Instr) : State :=
  if (curSeq s).late.isEmpty then s else modSeq s (fun q => { q with late := q.late.filter (staysLate i) })

/-- The word is about to execute: the answer it came with is used up, and the loads that cannot come after it have performed. -/
def fetched (s : State) (w : Word) : State :=
  let who := fetchAsker s
  let s1 := keepLate { s with answers := s.answers.filter (fun e => e.2.ask.who ≠ who) } (decode64 s.cur.side w)
  { s1 with cur := { s1.cur with word := w } }

/-- ILLEGAL_OPCODE (R57, R58): val is the word. -/
def execIllegalOpcode (w : Word) (s : State) : Out := finish s (faultWith 0x01 0 w 0)

/-- The fault of the fetch at the PC (R58). Where the fetch meets none, nothing happens. -/
def execInstructionFetchFault (s : State) : Out :=
  finish s (match fetchWord s with
    | .error (.fault f) => .error (.fault f)
    | .error (.walkFault f g) => .error (.walkFault f g)
    | _ => .error (.stall s))

end Sys2Proof.Machine
end

