-- ==== Sys2Proof/Machine/Dispatch.lean ====
section
/-!
DEFINITION. The meaning of each instruction: one arm per constructor of `Instr`.
-/

namespace Sys2Proof.Machine

def exec (i : Instr) (s : State) : Host.Outcome State Fault Refusal :=
  match i with
  | .sget d num => Sys2Proof.Machine.execSget d num s
  | .sset num a => Sys2Proof.Machine.execSset num a s
  | .live mask => Sys2Proof.Machine.execLive mask s
  | .trap code => Sys2Proof.Machine.execTrap code s
  | .brk code => Sys2Proof.Machine.execBrk code s
  | .fence p q scope => Sys2Proof.Machine.execFence p q scope s
  | .add d a b => Sys2Proof.Machine.execAdd d a b s
  | .sub d a b => Sys2Proof.Machine.execSub d a b s
  | .and d a b => Sys2Proof.Machine.execAnd d a b s
  | .or d a b => Sys2Proof.Machine.execOr d a b s
  | .xor d a b => Sys2Proof.Machine.execXor d a b s
  | .shl d a b => Sys2Proof.Machine.execShl d a b s
  | .shr d a b => Sys2Proof.Machine.execShr d a b s
  | .sar d a b => Sys2Proof.Machine.execSar d a b s
  | .mul d a b => Sys2Proof.Machine.execMul d a b s
  | .mulh d a b => Sys2Proof.Machine.execMulh d a b s
  | .mulhu d a b => Sys2Proof.Machine.execMulhu d a b s
  | .div d a b => Sys2Proof.Machine.execDiv d a b s
  | .divu d a b => Sys2Proof.Machine.execDivu d a b s
  | .mod d a b => Sys2Proof.Machine.execMod d a b s
  | .modu d a b => Sys2Proof.Machine.execModu d a b s
  | .min d a b => Sys2Proof.Machine.execMin d a b s
  | .max d a b => Sys2Proof.Machine.execMax d a b s
  | .minu d a b => Sys2Proof.Machine.execMinu d a b s
  | .maxu d a b => Sys2Proof.Machine.execMaxu d a b s
  | .slt d a b => Sys2Proof.Machine.execSlt d a b s
  | .sltu d a b => Sys2Proof.Machine.execSltu d a b s
  | .seq d a b => Sys2Proof.Machine.execSeq d a b s
  | .clz d a => Sys2Proof.Machine.execClz d a s
  | .ctz d a => Sys2Proof.Machine.execCtz d a s
  | .popc d a => Sys2Proof.Machine.execPopc d a s
  | .mv d a => Sys2Proof.Machine.execMv d a s
  | .sext d a w => Sys2Proof.Machine.execSext d a w s
  | .zext d a w => Sys2Proof.Machine.execZext d a w s
  | .addi d a imm => Sys2Proof.Machine.execAddi d a imm s
  | .andi d a imm => Sys2Proof.Machine.execAndi d a imm s
  | .ori d a imm => Sys2Proof.Machine.execOri d a imm s
  | .xori d a imm => Sys2Proof.Machine.execXori d a imm s
  | .shli d a imm => Sys2Proof.Machine.execShli d a imm s
  | .shri d a imm => Sys2Proof.Machine.execShri d a imm s
  | .sari d a imm => Sys2Proof.Machine.execSari d a imm s
  | .li d imm => Sys2Proof.Machine.execLi d imm s
  | .lih d a imm => Sys2Proof.Machine.execLih d a imm s
  | .fadd d a b => Sys2Proof.Machine.execFadd d a b s
  | .fsub d a b => Sys2Proof.Machine.execFsub d a b s
  | .fmul d a b => Sys2Proof.Machine.execFmul d a b s
  | .ffma d a b cc => Sys2Proof.Machine.execFfma d a b cc s
  | .fmin d a b => Sys2Proof.Machine.execFmin d a b s
  | .fmax d a b => Sys2Proof.Machine.execFmax d a b s
  | .fcmpEq d a b => Sys2Proof.Machine.execFcmpEq d a b s
  | .fcmpLt d a b => Sys2Proof.Machine.execFcmpLt d a b s
  | .fcmpLe d a b => Sys2Proof.Machine.execFcmpLe d a b s
  | .fcmpUn d a b => Sys2Proof.Machine.execFcmpUn d a b s
  | .fcvt d a dt st => Sys2Proof.Machine.execFcvt d a dt st s
  | .bEq a b off => Sys2Proof.Machine.execBEq a b off s
  | .bNe a b off => Sys2Proof.Machine.execBNe a b off s
  | .bLt a b off => Sys2Proof.Machine.execBLt a b off s
  | .bGe a b off => Sys2Proof.Machine.execBGe a b off s
  | .bLtu a b off => Sys2Proof.Machine.execBLtu a b off s
  | .bGeu a b off => Sys2Proof.Machine.execBGeu a b off s
  | .jal d off => Sys2Proof.Machine.execJal d off s
  | .jr d a => Sys2Proof.Machine.execJr d a s
  | .loop n p off => Sys2Proof.Machine.execLoop n p off s
  | .sbr cnt r1 r2 r3 r4 n na sh off => Sys2Proof.Machine.execSbr cnt r1 r2 r3 r4 n na sh off s
  | .boutEq d a b => Sys2Proof.Machine.execBoutEq d a b s
  | .boutNe d a b => Sys2Proof.Machine.execBoutNe d a b s
  | .boutLt d a b => Sys2Proof.Machine.execBoutLt d a b s
  | .boutGe d a b => Sys2Proof.Machine.execBoutGe d a b s
  | .boutLtu d a b => Sys2Proof.Machine.execBoutLtu d a b s
  | .boutGeu d a b => Sys2Proof.Machine.execBoutGeu d a b s
  | .bin a off => Sys2Proof.Machine.execBin a off s
  | .bmz a off => Sys2Proof.Machine.execBmz a off s
  | .post d a => Sys2Proof.Machine.execPost d a s
  | .postC d a b => Sys2Proof.Machine.execPostC d a b s
  | .ld z d a b off => Sys2Proof.Machine.execLd z d a b off s
  | .ldS z d a b off => Sys2Proof.Machine.execLdS z d a b off s
  | .ldNt z d a b off => Sys2Proof.Machine.execLdNt z d a b off s
  | .ldKeep z d a b off => Sys2Proof.Machine.execLdKeep z d a b off s
  | .st z d a b off => Sys2Proof.Machine.execSt z d a b off s
  | .stNt z d a b off => Sys2Proof.Machine.execStNt z d a b off s
  | .stKeep z d a b off => Sys2Proof.Machine.execStKeep z d a b off s
  | .amoSwap d a b sz => Sys2Proof.Machine.execAmoSwap d a b sz s
  | .amoCas d a b cc sz => Sys2Proof.Machine.execAmoCas d a b cc sz s
  | .amoAdd d a b sz => Sys2Proof.Machine.execAmoAdd d a b sz s
  | .amoAnd d a b sz => Sys2Proof.Machine.execAmoAnd d a b sz s
  | .amoOr d a b sz => Sys2Proof.Machine.execAmoOr d a b sz s
  | .amoXor d a b sz => Sys2Proof.Machine.execAmoXor d a b sz s
  | .amoMin d a b sz => Sys2Proof.Machine.execAmoMin d a b sz s
  | .amoMax d a b sz => Sys2Proof.Machine.execAmoMax d a b sz s
  | .amoMinu d a b sz => Sys2Proof.Machine.execAmoMinu d a b sz s
  | .amoMaxu d a b sz => Sys2Proof.Machine.execAmoMaxu d a b sz s
  | .amoFadd d a b sz => Sys2Proof.Machine.execAmoFadd d a b sz s
  | .redIadd32 a b => Sys2Proof.Machine.execRedIadd32 a b s
  | .redIadd64 a b => Sys2Proof.Machine.execRedIadd64 a b s
  | .redFadd32 a b => Sys2Proof.Machine.execRedFadd32 a b s
  | .redFaddbf16 a b => Sys2Proof.Machine.execRedFaddbf16 a b s
  | .redImax32 a b => Sys2Proof.Machine.execRedImax32 a b s
  | .redImin32 a b => Sys2Proof.Machine.execRedImin32 a b s
  | .redNmax32 a b => Sys2Proof.Machine.execRedNmax32 a b s
  | .redNmin32 a b => Sys2Proof.Machine.execRedNmin32 a b s
  | .redFmax32 a b => Sys2Proof.Machine.execRedFmax32 a b s
  | .redFmin32 a b => Sys2Proof.Machine.execRedFmin32 a b s
  | .redOr a b sz => Sys2Proof.Machine.execRedOr a b sz s
  | .redAnd a b sz => Sys2Proof.Machine.execRedAnd a b sz s
  | .redXor a b sz => Sys2Proof.Machine.execRedXor a b sz s
  | .pf a b off => Sys2Proof.Machine.execPf a b off s
  | .pfL2 a b off => Sys2Proof.Machine.execPfL2 a b off s
  | .pfPool a b off => Sys2Proof.Machine.execPfPool a b off s
  | .cwb a b off => Sys2Proof.Machine.execCwb a b off s
  | .vld t d a b off => Sys2Proof.Machine.execVld t d a b off s
  | .vst t d a b off => Sys2Proof.Machine.execVst t d a b off s
  | .vlds t k d a b => Sys2Proof.Machine.execVlds t k d a b s
  | .vsts t k d a b => Sys2Proof.Machine.execVsts t k d a b s
  | .vgth t sc k d a b => Sys2Proof.Machine.execVgth t sc k d a b s
  | .vgthProbe t sc k d a b => Sys2Proof.Machine.execVgthProbe t sc k d a b s
  | .vsct t sc k d a b => Sys2Proof.Machine.execVsct t sc k d a b s
  | .vldff t k d a b => Sys2Proof.Machine.execVldff t k d a b s
  | .vfas t k d a b => Sys2Proof.Machine.execVfas t k d a b s
  | .cpy hd hs dt st scope d a b cc => Sys2Proof.Machine.execCpy hd hs dt st scope d a b cc s
  | .cpyg hd hs dt st scope d a b cc => Sys2Proof.Machine.execCpyg hd hs dt st scope d a b cc s
  | .drain mx hd hs dt scope d a b => Sys2Proof.Machine.execDrain mx hd hs dt scope d a b s
  | .collAred op dt t scope d a b cc => Sys2Proof.Machine.execCollAred op dt t scope d a b cc s
  | .collBcast dt t scope d a b cc => Sys2Proof.Machine.execCollBcast dt t scope d a b cc s
  | .collAgth dt t scope d a b cc => Sys2Proof.Machine.execCollAgth dt t scope d a b cc s
  | .collRsct op dt t scope d a b cc => Sys2Proof.Machine.execCollRsct op dt t scope d a b cc s
  | .cadd scope p a b => Sys2Proof.Machine.execCadd scope p a b s
  | .cwait scope a b => Sys2Proof.Machine.execCwait scope a b s
  | .cwaitx scope a b cc => Sys2Proof.Machine.execCwaitx scope a b cc s
  | .wait set b => Sys2Proof.Machine.execWait set b s
  | .tnow d => Sys2Proof.Machine.execTnow d s
  | .tat a => Sys2Proof.Machine.execTat a s
  | .ctrdOs d set => Sys2Proof.Machine.execCtrdOs d set s
  | .ctrdAct d a b => Sys2Proof.Machine.execCtrdAct d a b s
  | .vacq d n => Sys2Proof.Machine.execVacq d n s
  | .vsetl d a w => Sys2Proof.Machine.execVsetl d a w s
  | .vtag d t => Sys2Proof.Machine.execVtag d t s
  | .vadd k d a b => Sys2Proof.Machine.execVadd k d a b s
  | .vsub k d a b => Sys2Proof.Machine.execVsub k d a b s
  | .vmul k d a b => Sys2Proof.Machine.execVmul k d a b s
  | .vmulh k d a b => Sys2Proof.Machine.execVmulh k d a b s
  | .vmin k d a b => Sys2Proof.Machine.execVmin k d a b s
  | .vmax k d a b => Sys2Proof.Machine.execVmax k d a b s
  | .vand k d a b => Sys2Proof.Machine.execVand k d a b s
  | .vor k d a b => Sys2Proof.Machine.execVor k d a b s
  | .vxor k d a b => Sys2Proof.Machine.execVxor k d a b s
  | .vshl k d a b => Sys2Proof.Machine.execVshl k d a b s
  | .vshr k d a b => Sys2Proof.Machine.execVshr k d a b s
  | .vsar k d a b => Sys2Proof.Machine.execVsar k d a b s
  | .vfma k d a b cc => Sys2Proof.Machine.execVfma k d a b cc s
  | .vabs k d a => Sys2Proof.Machine.execVabs k d a s
  | .vneg k d a => Sys2Proof.Machine.execVneg k d a s
  | .vnot k d a => Sys2Proof.Machine.execVnot k d a s
  | .vpopc k d a => Sys2Proof.Machine.execVpopc k d a s
  | .vclz k d a => Sys2Proof.Machine.execVclz k d a s
  | .vexp2 k d a => Sys2Proof.Machine.execVexp2 k d a s
  | .vlog2 k d a => Sys2Proof.Machine.execVlog2 k d a s
  | .vrcp k d a => Sys2Proof.Machine.execVrcp k d a s
  | .vrsqrt k d a => Sys2Proof.Machine.execVrsqrt k d a s
  | .vsqrt k d a => Sys2Proof.Machine.execVsqrt k d a s
  | .vcmpEq d a b => Sys2Proof.Machine.execVcmpEq d a b s
  | .vcmpNe d a b => Sys2Proof.Machine.execVcmpNe d a b s
  | .vcmpLt d a b => Sys2Proof.Machine.execVcmpLt d a b s
  | .vcmpLe d a b => Sys2Proof.Machine.execVcmpLe d a b s
  | .vcmpGt d a b => Sys2Proof.Machine.execVcmpGt d a b s
  | .vcmpGe d a b => Sys2Proof.Machine.execVcmpGe d a b s
  | .vcmpUn d a b => Sys2Proof.Machine.execVcmpUn d a b s
  | .mpush d a => Sys2Proof.Machine.execMpush d a s
  | .minv d => Sys2Proof.Machine.execMinv d s
  | .mpop d => Sys2Proof.Machine.execMpop d s
  | .mset d a => Sys2Proof.Machine.execMset d a s
  | .mget t d a => Sys2Proof.Machine.execMget t d a s
  | .vsel d a b => Sys2Proof.Machine.execVsel d a b s
  | .vmov k d a => Sys2Proof.Machine.execVmov k d a s
  | .vbcast t k d a => Sys2Proof.Machine.execVbcast t k d a s
  | .viota t k d a => Sys2Proof.Machine.execViota t k d a s
  | .vperm k d a b => Sys2Proof.Machine.execVperm k d a b s
  | .vxch k dist d a => Sys2Proof.Machine.execVxch k dist d a s
  | .vslideUp k d a b => Sys2Proof.Machine.execVslideUp k d a b s
  | .vslideDn k d a b => Sys2Proof.Machine.execVslideDn k d a b s
  | .vredAdd k d a => Sys2Proof.Machine.execVredAdd k d a s
  | .vredMin k d a => Sys2Proof.Machine.execVredMin k d a s
  | .vredMax k d a => Sys2Proof.Machine.execVredMax k d a s
  | .vredAnd k d a => Sys2Proof.Machine.execVredAnd k d a s
  | .vredOr k d a => Sys2Proof.Machine.execVredOr k d a s
  | .vredXor k d a => Sys2Proof.Machine.execVredXor k d a s
  | .vscanAdd k d a => Sys2Proof.Machine.execVscanAdd k d a s
  | .vscanMin k d a => Sys2Proof.Machine.execVscanMin k d a s
  | .vscanMax k d a => Sys2Proof.Machine.execVscanMax k d a s
  | .vscanAnd k d a => Sys2Proof.Machine.execVscanAnd k d a s
  | .vscanOr k d a => Sys2Proof.Machine.execVscanOr k d a s
  | .vscanXor k d a => Sys2Proof.Machine.execVscanXor k d a s
  | .vcmpr n d a b => Sys2Proof.Machine.execVcmpr n d a b s
  | .vtopk k d a b cc => Sys2Proof.Machine.execVtopk k d a b cc s
  | .vcvt t k d a => Sys2Proof.Machine.execVcvt t k d a s
  | .vqnt t k d a b => Sys2Proof.Machine.execVqnt t k d a b s
  | .vdq t k d a b => Sys2Proof.Machine.execVdq t k d a b s
  | .vlutG g k d a b cc => Sys2Proof.Machine.execVlutG g k d a b cc s
  | .vlutJ k d a => Sys2Proof.Machine.execVlutJ k d a s
  | .vlutY k d a b cc => Sys2Proof.Machine.execVlutY k d a b cc s
  | .mm at_ bt ct mxa mxb d a b => Sys2Proof.Machine.execMm at_ bt ct mxa mxb d a b s
  | .mms at_ bt ct mxa mxb sp spn d a b => Sys2Proof.Machine.execMms at_ bt ct mxa mxb sp spn d a b s
  | .mzero t d => Sys2Proof.Machine.execMzero t d s
  | .mld d a => Sys2Proof.Machine.execMld d a s
  | .mst d a => Sys2Proof.Machine.execMst d a s
  | .tpln t mx sp spn d a b => Sys2Proof.Machine.execTpln t mx sp spn d a b s
  | .tdef mx d a => Sys2Proof.Machine.execTdef mx d a s
  | .tfree u d => Sys2Proof.Machine.execTfree u d s
  | .twaitR d a => Sys2Proof.Machine.execTwaitR d a s
  | .twaitE d a => Sys2Proof.Machine.execTwaitE d a s
  | .tstat d a => Sys2Proof.Machine.execTstat d a s
  | .tsetl d a => Sys2Proof.Machine.execTsetl d a s
  | .tsetlC d a b => Sys2Proof.Machine.execTsetlC d a b s
  | .tlbiVa a scope => Sys2Proof.Machine.execTlbiVa a scope s
  | .tlbiAll scope => Sys2Proof.Machine.execTlbiAll scope s
  | .hset d a b => Sys2Proof.Machine.execHset d a b s
  | .hinv a => Sys2Proof.Machine.execHinv a s
  | .cbld all scope a cc => Sys2Proof.Machine.execCbld all scope a cc s
  | .tbld scope d a b cc => Sys2Proof.Machine.execTbld scope d a b cc s
  | .lkac scope d a b cc => Sys2Proof.Machine.execLkac scope d a b cc s
  | .bpld scope d a b cc => Sys2Proof.Machine.execBpld scope d a b cc s
  | .bkst scope d a b cc => Sys2Proof.Machine.execBkst scope d a b cc s
  | .kvgth v nr set scope d a b cc => Sys2Proof.Machine.execKvgth v nr set scope d a b cc s
  | .kvapp st fmt dc scope a b cc => Sys2Proof.Machine.execKvapp st fmt dc scope a b cc s
  | .sbindLd z sx d a b cc => Sys2Proof.Machine.execSbindLd z sx d a b cc s
  | .sbindSt z sx d a b cc => Sys2Proof.Machine.execSbindSt z sx d a b cc s
  | .sfree d => Sys2Proof.Machine.execSfree d s
  | .kAct a imm => Sys2Proof.Machine.execKAct a imm s
  | .kCol a imm => Sys2Proof.Machine.execKCol a imm s
  | .kMra a b cc => Sys2Proof.Machine.execKMra a b cc s
  | .kAloopR a step cnt off => Sys2Proof.Machine.execKAloopR a step cnt off s
  | .kAloopI a step cnt off => Sys2Proof.Machine.execKAloopI a step cnt off s
  | .kAjmp off => Sys2Proof.Machine.execKAjmp off s
  | .kSqpop a => Sys2Proof.Machine.execKSqpop a s
  | .kLk n part tb bg => Sys2Proof.Machine.execKLk n part tb bg s
  | .kLkI n part tb bg => Sys2Proof.Machine.execKLkI n part tb bg s
  | .kLkD n part => Sys2Proof.Machine.execKLkD n part s
  | .kLkDn n part => Sys2Proof.Machine.execKLkDn n part s
  | .kZclr n cnt => Sys2Proof.Machine.execKZclr n cnt s
  | .kZout n cnt => Sys2Proof.Machine.execKZout n cnt s
  | .kXloopR p off => Sys2Proof.Machine.execKXloopR p off s
  | .kXloopI cnt off => Sys2Proof.Machine.execKXloopI cnt off s
  | .kSqpush n => Sys2Proof.Machine.execKSqpush n s
  | .illegalOpcode w => Sys2Proof.Machine.execIllegalOpcode w s
  | .unassignedKernelWord w => Sys2Proof.Machine.execUnassignedKernelWord w s
  | .nop => Sys2Proof.Machine.execNop s
  | .yield => Sys2Proof.Machine.execYield s
  | .done => Sys2Proof.Machine.execDone s
  | .vrel => Sys2Proof.Machine.execVrel s
  | .hinvPinRelease slot sd => Sys2Proof.Machine.execHinvPinRelease slot sd s
  | .kPre => Sys2Proof.Machine.execKPre s
  | .kAend => Sys2Proof.Machine.execKAend s
  | .kIqpop => Sys2Proof.Machine.execKIqpop s
  | .kXend => Sys2Proof.Machine.execKXend s
  | .bankCommandStart stack => Sys2Proof.Machine.execBankCommandStart stack s
  | .codebookWrite die => Sys2Proof.Machine.execCodebookWrite die s
  | .waveStart die => Sys2Proof.Machine.execWaveStart die s
  | .waveEnd die => Sys2Proof.Machine.execWaveEnd die s
  | .bankCommandRetire id => Sys2Proof.Machine.execBankCommandRetire id s
  | .engineCommandComplete id => Sys2Proof.Machine.execEngineCommandComplete id s
  | .loadStreamFill slot q => Sys2Proof.Machine.execLoadStreamFill slot q s
  | .storeStreamWrite slot q => Sys2Proof.Machine.execStoreStreamWrite slot q s
  | .registerCacheFill slot => Sys2Proof.Machine.execRegisterCacheFill slot s
  | .writeThrough id => Sys2Proof.Machine.execWriteThrough id s
  | .readShared cache line => Sys2Proof.Machine.execReadShared cache line s
  | .readOwn line owner => Sys2Proof.Machine.execReadOwn line owner s
  | .facetRequest core line tag => Sys2Proof.Machine.execFacetRequest core line tag s
  | .partialPark core line => Sys2Proof.Machine.execPartialPark core line s
  | .evictionNotice cache line => Sys2Proof.Machine.execEvictionNotice cache line s
  | .rdShared req => Sys2Proof.Machine.execRdShared req s
  | .rdOwn req => Sys2Proof.Machine.execRdOwn req s
  | .rdCur req => Sys2Proof.Machine.execRdCur req s
  | .wrLine req mask data => Sys2Proof.Machine.execWrLine req mask data s
  | .inval line => Sys2Proof.Machine.execInval line s
  | .invAck line => Sys2Proof.Machine.execInvAck line s
  | .data tag bytes ps => Sys2Proof.Machine.execData tag bytes ps s
  | .wbOwn line bytes => Sys2Proof.Machine.execWbOwn line bytes s
  | .recall line => Sys2Proof.Machine.execRecall line s
  | .atomic req op sz b cc => Sys2Proof.Machine.execAtomic req op sz b cc s
  | .atomicRsp tag old => Sys2Proof.Machine.execAtomicRsp tag old s
  | .cmp tag denied => Sys2Proof.Machine.execCmp tag denied s
  | .reservedCodeFrame link => Sys2Proof.Machine.execReservedCodeFrame link s
  | .attReq nonce k tag => Sys2Proof.Machine.execAttReq nonce k tag s
  | .partCfg rec tag => Sys2Proof.Machine.execPartCfg rec tag s
  | .haltRelease part tag => Sys2Proof.Machine.execHaltRelease part tag s
  | .swWrite num target value tag => Sys2Proof.Machine.execSwWrite num target value tag s
  | .telReq readings tag => Sys2Proof.Machine.execTelReq readings tag s
  | .rd req len => Sys2Proof.Machine.execRd req len s
  | .wr req mask data => Sys2Proof.Machine.execWr req mask data s
  | .bftAtomic req op sz b cc => Sys2Proof.Machine.execBftAtomic req op sz b cc s
  | .ctrAdd req inc => Sys2Proof.Machine.execCtrAdd req inc s
  | .ctrWait req target => Sys2Proof.Machine.execCtrWait req target s
  | .rsp tag bytes denied ps => Sys2Proof.Machine.execRsp tag bytes denied ps s
  | .ctrWake tag value => Sys2Proof.Machine.execCtrWake tag value s
  | .coll part gtag seq rank shape bytes => Sys2Proof.Machine.execColl part gtag seq rank shape bytes s
  | .ieee1588Message ppm => Sys2Proof.Machine.execIeee1588Message ppm s
  | .pfcPause link cls on => Sys2Proof.Machine.execPfcPause link cls on s
  | .retransmitTimeout link => Sys2Proof.Machine.execRetransmitTimeout link s
  | .transportTimeout tag => Sys2Proof.Machine.execTransportTimeout tag s
  | .portStateChange link up => Sys2Proof.Machine.execPortStateChange link up s
  | .linkFailure link => Sys2Proof.Machine.execLinkFailure link s
  | .hostCounterPoll cluster cid sd => Sys2Proof.Machine.execHostCounterPoll cluster cid sd s
  | .cwaitSatisfied cluster cid sd => Sys2Proof.Machine.execCwaitSatisfied cluster cid sd s
  | .refresh bank grp => Sys2Proof.Machine.execRefresh bank grp s
  | .refreshTempSample stack t0 t1 => Sys2Proof.Machine.execRefreshTempSample stack t0 t1 s
  | .refreshManagement bank => Sys2Proof.Machine.execRefreshManagement bank s
  | .alertWindowReset => Sys2Proof.Machine.execAlertWindowReset s
  | .patrolScrub line bad => Sys2Proof.Machine.execPatrolScrub line bad s
  | .throttleSample die sensor temp => Sys2Proof.Machine.execThrottleSample die sensor temp s
  | .bankBandSample die sensor temp => Sys2Proof.Machine.execBankBandSample die sensor temp s
  | .nocClockSample die occ => Sys2Proof.Machine.execNocClockSample die occ s
  | .powerOn firmware microcode node time => Sys2Proof.Machine.execPowerOn firmware microcode node time s
  | .serviceLevelChange level => Sys2Proof.Machine.execServiceLevelChange level s
  | .windowEntry cluster => Sys2Proof.Machine.execWindowEntry cluster s
  | .launchTime cluster task => Sys2Proof.Machine.execLaunchTime cluster task s
  | .timedPrepare cluster task => Sys2Proof.Machine.execTimedPrepare cluster task s
  | .priorityAging cluster task => Sys2Proof.Machine.execPriorityAging cluster task s
  | .dispatch slot => Sys2Proof.Machine.execDispatch slot s
  | .preemptionRequest cluster task slot => Sys2Proof.Machine.execPreemptionRequest cluster task slot s
  | .stagingComplete slot => Sys2Proof.Machine.execStagingComplete slot s
  | .swap slot => Sys2Proof.Machine.execSwap slot s
  | .spillComplete slot => Sys2Proof.Machine.execSpillComplete slot s
  | .taskComplete cluster task => Sys2Proof.Machine.execTaskComplete cluster task s
  | .iterationWatchdog slot => Sys2Proof.Machine.execIterationWatchdog slot s
  | .haltComplete part => Sys2Proof.Machine.execHaltComplete part s
  | .instructionFetchFault => Sys2Proof.Machine.execInstructionFetchFault s
  | .matrixInstructionComplete core => Sys2Proof.Machine.execMatrixInstructionComplete core s
  | .timeBaseReached slot sd => Sys2Proof.Machine.execTimeBaseReached slot sd s
  | .saturationWindowStart slot => Sys2Proof.Machine.execSaturationWindowStart slot s
  | .disjCopyEviction core line => Sys2Proof.Machine.execDisjCopyEviction core line s
  | .linkRetry link failed => Sys2Proof.Machine.execLinkRetry link failed s

end Sys2Proof.Machine
end

