-- ==== Sys2Proof/Machine/Turns.lean ====
section
/-!
DEFINITION. What an agent does on its turn (log entry 1): a sequencer fetches, decodes and executes the word at its PC; a
bank lookup unit's thread does so with its kernel word; time passes; the header of a frame arrives; the management path sets
something; a soft error shows; a read is made ahead of its load, or a load performs late; another agent takes its step.
-/

namespace Sys2Proof.Machine

/-- The sequencer that is at work. -/
def atSeq (s : State) (slot : Nat) (sd : Side) : State := { s with cur := ⟨slot, sd, 0, false, .none, 0, none, s.ids, []⟩ }

/-- The kernel thread that is at work. -/
def atBlu (s : State) (bank : Nat) (arith : Bool) (parity : Parity) : State :=
  { s with cur := ⟨0, .x, bank, arith, parity, 0, none, s.ids, []⟩ }

/-- The context in a slot. -/
def keyAt (s : State) (slot : Nat) : Nat := (slotAt s slot).ctx.getD 0

/-- A sequencer takes its turn: what it waits for in the queues of banks is served now. -/
def beginSeq (s : State) (slot : Nat) (sd : Side) : State :=
  let key := keyAt s slot
  atSeq (leaveQueues s (fun w => w = .seq key sd || w = .fetch key sd)) slot sd

/-- What an instruction's loads leave late (R220; log entry 4), of what it read: element, physical address, bytes. -/
def lateLoads (i : Instr) (reads : List (Nat × Nat × Nat)) : List LateLoad :=
  let scalar (d : Spec) (sx : Bool) : List LateLoad :=
    match d with
    | .x _ r => if r = 0 then [] else reads.map (fun e => ⟨d, 0, 0, e.2.1, e.2.2, sx⟩)
    | .o _ => reads.map (fun e => ⟨d, 0, 0, e.2.1, e.2.2, sx⟩)
    | _ => []
  let vector (t : BitVec 4) (d : Spec) : List LateLoad :=
    match d with
    | .v _ =>
      if tyOfCode t = .f4e2m1 then []
      else reads.map (fun e => ⟨d, e.1 * elemBytes (tyOfCode t), 0, e.2.1, e.2.2, false⟩)
    | _ => []
  match i with
  | .ld _ d .. | .ldNt _ d .. | .ldKeep _ d .. => scalar d false
  | .ldS _ d .. => scalar d true
  | .vld t d .. | .vlds t _ d .. | .vgth t _ _ d .. | .vgthProbe t _ _ d .. | .vldff t _ d .. => vector t d
  | _ => []

/-- An instruction that has retired leaves its loads late. -/
def noteLate (s : State) (i : Instr) (t : State) : State :=
  let l := lateLoads i t.cur.reads
  if l.isEmpty || (curSeq t).pc = (curSeq s).pc || (curSeq t).status ≠ .running then t
  else modSeq t (fun q => { q with late := q.late ++ l })

/-- The turn ends: the registers its register cache gave up and a changed live mask go to the context block (R85), and a
`yield` of the core owes the sequencer no issue slot any more (R266). -/
def endSeq (s : State) (key slot : Nat) (sd : Side) (t : State) : State :=
  hadSlot (writeLive s (writeEvicted t key sd) key) slot sd

def endTurn (f : State → State) : Out → Out
  | .next t => .next (f t)
  | .fault e => .fault e
  | .refused e => .refused e

/-- A sequencer's turn (R58): the faults of the fetch, then the instruction. A turn that finds it unable to issue
changes nothing (log entry 2). -/
def seqTurn (s : State) (slot : Nat) (sd : Side) : Out :=
  if mayIssue s slot sd then
    let s1 := beginSeq s slot sd
    endTurn (endSeq s (keyAt s slot) slot sd) (match fetchWord s1 with
      | .error (.stall t) => .next t
      | .error (.wait g) => .next (g (plainWait s1))
      | .error _ => exec .instructionFetchFault s1
      | .ok (s2, w) => endTurn (noteLate s1 (decode64 sd w)) (exec (decode64 sd w) (fetched s2 w)))
  else .next s

/-- A kernel thread's turn (R292, R293). -/
def bluTurn (s : State) (bank : Nat) (arith : Bool) (parity : Parity) : Out :=
  let s1 := atBlu s bank arith parity
  match kernAt s1 with
  | none => .next s
  | some k =>
    let w := kernelWord s1 k.cmd.stack (kernPc s1 k)
    match decodeKernel w with
    | some i => exec i s1
    | none => exec (.unassignedKernelWord w) s1

/-- What a sequencer's load of bytes inside one line would read now (R220): at the home of a device line that serves it at
once, in a scratchpad of its cluster, or in a copy of a host line that one of its caches holds. -/
def aheadBytes (t : State) (pa n : Nat) : Option (List Byte) :=
  let c := curCtx t
  let line := lineOf pa
  let core := curCore t
  match window t core pa with
  | .device _ =>
    if deviceAllowed t c.part pa && !isFaceted (dirAt t line) && !poisoned t pa && !ownAddOver t pa n &&
        (homeHolds t (curAsker t) c.part core line false).isNone then some (coreRead t core pa n)
    else none
  | .scratch q => if targetAllowed t c.part core (.scratch q) && !poisoned t q then some (memRead t.mem q n) else none
  | .host _ =>
    match hostLineAt t line with
    | some h =>
      if (h.holders.contains core || h.holders.contains (poolCache core)) && !h.ps && !ownAddOver t pa n then
        some (overlay (coreWts t core) pa (listSlice h.bytes (pa % 128) n))
      else none
    | none => none
  | _ => none

/-- A sequencer may read bytes inside one line ahead of its program order now (R220): no fence and no store or add of its own
orders the read, no earlier load of them is late, and it has not read them ahead already. -/
def mayReadAhead (t : State) (pa n : Nat) : Bool :=
  let c := curCtx t
  n ≠ 0 && decide (pa % 128 + n ≤ 128) && (curSeq t).status = .running && partRuns t c.part &&
    !(curSeq t).ahead.any (aheadOver pa n) && !(curSeq t).late.any (lateOver pa n) && !fenceBlocks t .s &&
    !fenceBlocks t .v && !streamStores c t.cur.side t.ids

/-- The address in this package of bytes that may be named through the fabric window. -/
def nodeAddr (t : State) (pa : Nat) : Nat := match window t (curCore t) pa with | .own q => q | _ => pa

/-- A read of a device line out of its place at its home. -/
def readOutOfPlace (t : State) (pa : Nat) : State :=
  if deviceLine (lineOf pa) then noteRead (recallLocal t (lineOf pa)) (lineOf pa) (curCore t) else t

/-- A read performed ahead of the load it belongs to (R220). -/
def readAhead (s : State) (slot : Nat) (sd : Side) (addr n : Nat) : State :=
  let t := atSeq s slot sd
  let pa := nodeAddr t addr
  if (slotAt s slot).ctx.isNone || !mayReadAhead t pa n then s
  else
    match aheadBytes t pa n with
    | none => s
    | some b => { modSeq (readOutOfPlace t pa) (fun q => { q with ahead := q.ahead ++ [(pa, b)] }) with cur := s.cur }

/-- A late load's bytes go where its value went: to its register, and to the last-result file while that still has it. -/
def takeLate (c : Ctx) (sd : Side) (e : LateLoad) (b : List Byte) : Ctx :=
  let v : Word := if e.sx then signExt e.n (BitVec.ofNat 64 (leNat b)) else BitVec.ofNat 64 (leNat b)
  let q := seqOf c sd
  match e.dst with
  | .x _ r => setSeq c sd { q with x := if r = 0 then q.x else q.x.set r.toNat v r.isLt, l := q.l.setIfInBounds e.back v }
  | .o r => setSeq c sd { q with o := q.o.set r.toNat v r.isLt, l := q.l.setIfInBounds e.back v }
  | .v r =>
    let g := c.v[r.toNat]'r.isLt
    { c with v := c.v.set r.toNat { g with data := listSet g.data e.off b } r.isLt }
  | _ => c

/-- A load performs after the accesses behind it (R220). -/
def lateLoad (s : State) (slot : Nat) (sd : Side) (i : Nat) : State :=
  let t := atSeq s slot sd
  match (slotAt s slot).ctx, (curSeq t).late[i]? with
  | some _, some e =>
    if (curSeq t).status ≠ .running || !partRuns t (curPart t) then s
    else
      match aheadBytes t e.pa e.n with
      | none => s
      | some b =>
        let u := modCur (readOutOfPlace t e.pa) (fun c => takeLate c sd e b)
        { modSeq u (fun q => { q with late := q.late.eraseIdx i }) with cur := s.cur }
  | _, _ => s

/-! ### Requests that a wave holds (R164) -/

/-- The line of device memory that a request from outside the core acts on at its home, and whether it writes. -/
def homeRequest (i : Instr) : Option (Nat × Bool) :=
  match i with
  | .readShared _ line => some (line, false)
  | .readOwn line _ => some (line, true)
  | .facetRequest _ line _ => some (line, true)
  | .rdShared req | .rdOwn req | .rdCur req => some (lineOf req.addr, false)
  | .wrLine req _ _ | .atomic req _ _ _ _ => some (lineOf req.addr, true)
  | .wbOwn line _ => some (line, true)
  | .rd req _ | .ctrWait req _ => some (lineOf (fabricOffset req), false)
  | .wr req _ _ | .bftAtomic req _ _ _ _ | .ctrAdd req _ => some (lineOf (fabricOffset req), true)
  | .disjCopyEviction _ line => some (line, true)
  | _ => none

/-- A wave on the line's bank holds the request, if it is not refused. -/
def heldByWave (s : State) (i : Instr) : Bool :=
  match homeRequest i with
  | some (line, write) => deviceLine line && waveHolds s line write
  | none => false

/-- The request is kept, once, and served before another wave starts on the bank. -/
def holdRequest (i : Instr) (s : State) : State := if s.held.contains i then s else { s with held := s.held ++ [i] }

/-- After an agent's step: a request that a wave holds is kept, and so is a step that left an access of the device in the queue
of a bank. -/
def holdStep (s : State) (i : Instr) (t : State) : State :=
  if t.bankWaits.any (fun w => w.who = .home) then
    holdRequest i { t with bankWaits := t.bankWaits.filter (fun w => w.who ≠ .home) }
  else if heldByWave s i && decide (t = s) then holdRequest i t
  else t

/-- The steps that are turns of their own: those of the agents other than sequencers and kernel threads. -/
def ownTurn (i : Instr) : Bool :=
  decide (i.kind = .step) &&
    (match i with | .illegalOpcode _ | .instructionFetchFault | .unassignedKernelWord _ => false | _ => true)

def isPowerOn : Turn → Bool
  | .event (.powerOn ..) => true
  | _ => false

def takeTurn (s : State) : Turn → Out
  | .seq slot sd => seqTurn s slot.toNat sd
  | .blu bank arith parity => bluTurn s bank.toNat arith parity
  | .tick ns cycles => .next (tick s ns cycles)
  | .header link cls seq ack => .next (frameHeader link cls seq ack s)
  | .manage m => .next (manage s m)
  | .softError line => .next (softError s line)
  | .copyError core line bytes => .next (copyError s core line bytes)
  | .readAhead slot sd pa n => .next (readAhead s slot.toNat sd pa n)
  | .lateLoad slot sd i => .next (lateLoad s slot.toNat sd i)
  | .strayFrame link priority => .next (strayFrame s link priority)
  | .event i =>
    if !ownTurn i then .next s
    else endTurn (holdStep s i) (exec i s)

/-- The turn that comes next, and the state with it taken off the agenda. -/
def nextTurn (s : State) : State × Turn :=
  match s.agenda with
  | t :: r => ({ s with agenda := r }, t)
  | [] => ({ s with turnNo := s.turnNo + 1 }, Config.turn s.turnNo)

/-! ### Placing one instruction to be fetched next -/

/-- The PC at which a word is placed, and the leaf that maps its page onto the scratchpad of core 0: present, leaf, R, W,
X, U. -/
def placePc : Word := 0x10000
def placeLeaf : Word := BitVec.ofNat 64 (0x3F + scratchBase)

/-- A sequencer's word stands at the PC of hart slot 0, whose context runs, and its page is in core 0's translation
cache. -/
def placeWord (s : State) (sd : Side) (w : Word) : State :=
  let l := slotAt s 0
  let key := l.ctx.getD 0
  let c := match l.ctx with | some k => ctxAt s k | none => { Ctx.reset with place := .inSlot 0, cblk := 0x7000000000 }
  let q := { seqOf c sd with pc := placePc, status := .running, fences := [], atBound := false }
  let s1 := modPart (setCtx (setSlot s 0 { l with ctx := some key, fill := none }) key (setSeq c sd q)) c.part
    (fun p => { p with halted := false })
  { s1 with
    powered := true
    mem := memWrite s1.mem scratchBase (leBytes 8 w.toNat)
    poison := s1.poison.filter (· ≠ lineOf scratchBase)
    tlb := tabPut s1.tlb 0 (⟨c.part, placePc.toNat, 16, placeLeaf⟩ :: tlbOf s1 0)
    agenda := .seq 0 sd :: s1.agenda }

/-- The word belongs to the arithmetic thread (Table 13.6). -/
def arithWord (w : BitVec 32) : Bool := decide (0x10 ≤ (w.extractLsb' 26 6).toNat)

/-- A kernel word stands at word 512 of stack 0's bank program memory, bank 0 runs it for a `bkst` of its own, and a wave
is on. -/
def placeKernel (s : State) (w : BitVec 32) : State :=
  let id := s.ids
  let desc : BankDesc := { aentry := 512, xentry := 512, klo := 512, khi := 1023, bank0 := 0, nbank := 1, ncol := 0,
                           slot := 0, b := 8, g := 1, gb := 0, tb := 0, ot := false, sact := 0,
                           p := Vector.replicate 8 0 }
  let cmd : BankCmd := { issuer := default, kind := .bkst desc none, die := 0, stack := 0, lo := 0, nrow := 32768,
                         handle := 0, started := true, faulted := false, aborted := false, startNo := 0, book := none,
                         scale := 0, sums := [], sats := 0, drained := 0, lastBank := none }
  let s1 := modDie s 0 (fun d => { d with wave := some ⟨[0], 0⟩ })
  let s2 := setStack s1 0 { stackAt s1 0 with prog := tabPut (stackAt s1 0).prog 512 w }
  let s3 := setBlu s2 0 { Blu.reset with apc := 512, xpc := 512, aEnded := false, xEnded := false, cmd := some id }
  { s3 with
    powered := true
    bankCmds := tabPut s3.bankCmds id cmd
    ids := id + 1
    agenda := .blu 0 (arithWord w) .none :: s3.agenda }

/-- A word of the opcode table placed: 32-bit rows are kernel words, the others a sequencer's; a word that X may not run
goes to A. -/
def placeTableWord (s : State) (nbits w : Nat) : State :=
  if nbits ≤ 32 then placeKernel s (BitVec.ofNat 32 w)
  else
    let v : Word := BitVec.ofNat 64 w
    placeWord s (if (decodeRaw .x (rawOf v)).isSome then .x else .a) v

end Sys2Proof.Machine
end

