-- ==== Sys2Proof/Machine/Step.lean ====
section
/-!
DEFINITION. One step of the machine: the next turn of the agenda is taken.
-/

namespace Sys2Proof.Machine

def step (s : State) : Host.Outcome State Fault Refusal :=
  let r := nextTurn s
  if !s.powered && !isPowerOn r.2 then .fault .noPower else takeTurn r.1 r.2

/-- `s` with an instruction of the opcode table placed where the next step fetches it, and that step made its turn. -/
def State.withFetchWord (s : State) (nbits w : Nat) : State := placeTableWord s nbits w

end Sys2Proof.Machine
end

