-- ==== Sys2Proof/Safety.lean ====
section
/-!
DEFINITION. What counts as a good state and a safe run, and when an instruction's operands can be read and written: the
terms the statements use.
-/

namespace Sys2Proof.Machine

/-! ### Good states -/

/-- A register file whose x0 reads 0 (R69): the stored x0 is never read, and this says it is never written. -/
def x0Zero (s : State) : Prop := ∀ e ∈ s.ctxs, e.2.a.x[0] = 0 ∧ e.2.x.x[0] = 0

/-- Limits of a sequencer: six loops, sixteen cached registers (R74, R84). -/
def seqLimits (q : Seq) : Prop := q.loops.length ≤ 6 ∧ q.rc.length ≤ 16

/-- Limits of a context (R74, R76, R84). -/
def ctxLimits (c : Ctx) : Prop := seqLimits c.a ∧ seqLimits c.x ∧ c.masks.length ≤ 8

/-- No context exceeds its limits. -/
def ctxsWithin (s : State) : Prop := ∀ e ∈ s.ctxs, ctxLimits e.2

/-- A context differs at most in what an add to a counter does to the sequencers that wait on it: their status, what they are
stalled on, and the context's fault record (R339, R355). -/
def wokenOnly (c d : Ctx) : Prop :=
  d = { c with a := { c.a with status := d.a.status, why := d.a.why }, x := { c.x with status := d.x.status, why := d.x.why },
               fault := d.fault, mf := d.mf }

/-- A run is safe while every step answers a next state. -/
def SafeStep (s : State) : Prop := ∃ t, step s = .next t

/-! ### Operands -/

/-- A check, or a chain of them, answers. -/
def okRes {α : Type} (r : Res α) : Bool :=
  match r with
  | .ok _ => true
  | .error _ => false

/-- Every operand can be read or written now: its class is accepted (R51), no stream fault is due (R256, R257), its pushes
may go (R222, R257), every queue serves its pops and pushes (R53), and every live x source is in the register cache
(R84). -/
def operandsReady (s : State) (ops : List Opnd) : Bool :=
  okRes (checkSpecs s (curCtx s) ops) && okRes (streamFaults s (curCtx s) ops ops) &&
    pushesGo s (curCtx s) ops && ops.all (fun o => qReady (curCtx s) ops o.sp) &&
    (firstMiss (curSeq s) ops).isNone

/-- The state once the operands have been read: queues popped, registers most recently used, marked ones dead (R52). -/
def afterReads (s : State) (ops : List Opnd) : State :=
  modCur s (fun c => setSeq (popQueues c ops) s.cur.side (touchSources s.ids (seqOf c s.cur.side) ops))

/-- The value of the `i`-th operand. -/
def operandValue (s : State) (ops : List Opnd) (i : Nat) : Word := valAt (srcValues (curCtx s) (curSeq s) [] ops) i

/-- The executing sequencer's context is in its hart slot. -/
def inSlot (s : State) : Prop := (slotAt s s.cur.slot).ctx = some (curKey s)

end Sys2Proof.Machine
end

