-- ==== Sys2Proof/Certificates/Slice0/Obligations.lean ====
section
/-!
DEFINITION. The statements for the provers. Each says what the spec's rules say an instruction or the machine does; the
words of a premise are about the state and the operands alone.
-/

open Sys2Proof Sys2Proof.Machine

/-! ## Encoding -/

/-- Words written out from the spec's encodings decode to the instructions they stand for, a few of each family. -/
def Obligations.DecodeWords : Prop :=
  decode64 .x 0x0100000000000000 = .nop ∧
  decode64 .a 0x0800052324000000 = .add (.x false 5) (.x true 3) (.x true 4) ∧
  decode64 .a 0x08000504C5000000 = .add (.x false 5) (.x false 4) (.imm 5) ∧
  decode64 .x 0x1200C40000000004 = .loop (.imm 4) false 4 ∧
  decode64 .a 0x13037023C0000000 = .boutGe .bq (.x true 3) (.imm 0) ∧
  decode64 .x 0x1308700000000002 = .bin .bq 2 ∧
  decode64 .x 0x200A040607000010 = .ldS 2 (.x false 4) (.x false 6) (.x false 7) 16 ∧
  decode64 .x 0x28EA810900000100 = .vst 0xD (.v 1) (.x false 9) (.x false 0) 256 ∧
  decode64 .x 0x4301828100000001 = .vneg true (.v 2) (.v 1) ∧
  decode64 .x 0x500068A1A2B8D002 = .mm 0xB 0x8 0xD false true (.acc 0) (.t 1) (.t 2) ∧
  decode64 .x 0x590103090A000000 = .hset (.x false 3) (.x false 9) (.x false 10) ∧
  decode64 .x 0x6800510506070002 = .sbindLd 2 false (.q 1) (.x false 5) (.x false 6) (.x false 7) ∧
  decodeKernel 0x04000000 = some (.kAct 0 0) ∧
  decodeKernel 0x54000000 = some .kXend

/-- R56: OP 0x00 and OP 0xFF are unassigned, so no word with either is an instruction. -/
def Obligations.NeverInstructions : Prop :=
  ∀ (sd : Side) (w : Word), w.extractLsb' 56 8 = 0x00#8 ∨ w.extractLsb' 56 8 = 0xFF#8 →
    decode64 sd w = .illegalOpcode w

/-- Decode and encode agree: the word of a well-formed instruction decodes to it on every sequencer its group is permitted
on. -/
def Obligations.DecodeEncode : Prop :=
  ∀ (sd : Side) (i : Instr) (w : Word), i.wf = true → encode i = some w →
    groupOn sd (w.extractLsb' 56 8) (w.extractLsb' 48 8) = true → decode64 sd w = i

/-- Every word has one meaning: a word that decodes to an instruction is that instruction's only encoding, and the
instruction is well-formed. -/
def Obligations.EncodeDecode : Prop :=
  ∀ (sd : Side) (w : Word), decode64 sd w = .illegalOpcode w ∨
    (encode (decode64 sd w) = some w ∧ (decode64 sd w).wf = true)

/-- A kernel word and its instruction determine each other. -/
def Obligations.KernelRoundTrip : Prop :=
  ∀ (w : BitVec 32) (i : Instr), decodeKernel w = some i ↔ encodeKernel i = some w

/-! ## Steps, reset and invariants -/

/-- A step whose turn is a sequencer's that may issue runs the instruction its decoder reads from the word fetched at its
PC; what its loads may still read is noted (R220; that such reads are noted at all is log entry 4), and then the registers its
register cache gave up and a changed live mask are written to its context block and a `yield` of its core owes it no issue slot
(R85, R266): where there is none of these, the step is the instruction alone. A kernel thread's turn runs the kernel
instruction at its word. Another agent's turn runs its own step, and is held, to be served before another wave starts, where it
left an access in the queue of a bank or a wave holds its request (R164): where there is neither, the step is the instruction
alone. The agenda of turns is the model's (log entry 1). -/
def Obligations.StepRunsDecoded : Prop :=
  (∀ (s t : State) (slot : BitVec 12) (sd : Side) (rest : List Turn) (w : Word),
    s.powered = true → s.agenda = .seq slot sd :: rest →
    mayIssue { s with agenda := rest } slot.toNat sd = true →
    fetchWord (beginSeq { s with agenda := rest } slot.toNat sd) = .ok (t, w) →
    step s = endTurn (endSeq { s with agenda := rest } (keyAt s slot.toNat) slot.toNat sd)
      (endTurn (noteLate (beginSeq { s with agenda := rest } slot.toNat sd) (decode64 sd w))
        (exec (decode64 sd w) (fetched t w))) ∧
    (∀ u, exec (decode64 sd w) (fetched t w) = .next u → lateLoads (decode64 sd w) u.cur.reads = [] →
      (seqOf (ctxAt u (keyAt s slot.toNat)) sd).evicted = [] →
      (tabGet u.ctxs (keyAt s slot.toNat) = none ∨
        liveBytes (ctxAt u (keyAt s slot.toNat)) = liveBytes (ctxAt s (keyAt s slot.toNat))) →
      (∀ e ∈ u.ctxs, ∀ owed, e.2.a.status ≠ .waiting (.yield owed) ∧ e.2.x.status ≠ .waiting (.yield owed)) →
      step s = .next u)) ∧
  (∀ (s : State) (bank : BitVec 14) (arith : Bool) (parity : Parity) (rest : List Turn) (k : Kern) (i : Instr),
    s.powered = true → s.agenda = .blu bank arith parity :: rest →
    kernAt (atBlu { s with agenda := rest } bank.toNat arith parity) = some k →
    decodeKernel (kernelWord s k.cmd.stack (kernPc (atBlu { s with agenda := rest } bank.toNat arith parity) k)) = some i →
    step s = exec i (atBlu { s with agenda := rest } bank.toNat arith parity)) ∧
  (∀ (s : State) (rest : List Turn) (i : Instr), s.powered = true → s.agenda = .event i :: rest → ownTurn i = true →
    let u := { s with agenda := rest }
    step s = endTurn (holdStep u i) (exec i u) ∧
    (∀ t, exec i u = .next t → (∀ w ∈ t.bankWaits, w.who ≠ .home) → heldByWave u i = false → step s = .next t) ∧
    (exec i u = .next u → (∀ w ∈ u.bankWaits, w.who ≠ .home) → heldByWave u i = true →
      step s = .next (holdRequest i u)) ∧
    (∀ t, exec i u = .next t → (∃ w ∈ t.bankWaits, w.who = .home) → ∃ v, step s = .next v ∧ i ∈ v.held ∧
      v = { t with bankWaits := v.bankWaits, held := v.held } ∧
      ∀ w, w ∈ v.bankWaits ↔ w ∈ t.bankWaits ∧ w.who ≠ .home))

/-- The word fetched is the eight bytes at the physical address the PC's page gives, little-endian: in a scratchpad, or in
device memory where its home makes the fetch wait for nothing, and whose home slice takes the line as the page says
(R172). That a fetch reads the word at its home when it executes, and never an older one fetched ahead, is the model's choice
(log entry 9). -/
def Obligations.FetchReadsMemory : Prop :=
  ∀ (s s1 : State) (h : Hit) (pa : Nat), fenceBlocks s .i = false →
    access s (curSeq s).pc 0 needX = .ok (s1, h) →
    (h.tgt = .scratch pa → poisoned s1 pa = false → fetchWord s = .ok (s1, memWord s1.mem pa)) ∧
    (h.tgt = .device pa ∨ h.tgt = .own pa →
      homeHolds s (fetchAsker s) (curPart s) (curCore s) (lineOf pa) false = none →
      let u := noteRead (useSlice (homeLine s1 (lineOf pa) (some s.cur.slot)) (lineOf pa)
        (if h.tgt.isOwn then none else leafKeeps h.leaf) (leafCMP h.leaf)) (lineOf pa) walkerAgent
      poisoned u pa = false → fetchWord s = .ok (u, memWord u.mem pa))

/-- Nothing stops the machine but a loss of power: every instruction answers a next state, and so does every step of a
package that has power; one without power takes no turn but the power-on. That faults are next states is the model's
choice (log entry 3), and so is that a step without power stops (log entry 61). -/
def Obligations.NothingStops : Prop :=
  (∀ (i : Instr) (s : State), ∃ t, exec i s = .next t) ∧ (∀ s : State, s.powered = true → SafeStep s) ∧
  (∀ s : State, s.powered = false → isPowerOn (nextTurn s).2 = false → step s = .fault .noPower)

/-- What reset leaves, where the spec gives the value: memory reads zero (R156), the words of Table 4.2 with a reset value,
the codebook slots (R279), sw.svc 0 (R369), measurement M3 zero (R372), and no partition configured. The machine after reset
meets the invariants: memory is in its canonical form, x0 is zero and no context exceeds its limits. -/
def Obligations.ResetValues : Prop :=
  (∀ a n : Nat, memRead State.reset.mem a n = List.replicate n 0) ∧
  State.reset.actalert = 1024 ∧ State.reset.actmgmt = 4 ∧ State.reset.svc = 0 ∧ State.reset.m3 = 0 ∧
  (∀ d : Nat, (dieAt State.reset d).bankmax = 4096 ∧ (dieAt State.reset d).bkidle = 0 ∧
    ∀ i : Fin 64, (dieAt State.reset d).cb[i] = ⟨0, 0, 1⟩) ∧
  (∀ n : Nat, (slotAt State.reset n).ctx = none ∧ (slotAt State.reset n).satthr = 0 ∧ (slotAt State.reset n).satwin = 0 ∧
    (∀ i : Fin 8, (slotAt State.reset n).sat[i] = 0) ∧ (∀ i : Fin 16, (slotAt State.reset n).pm[i] = 0)) ∧
  (∀ p : Nat, (partAt State.reset p).configured = false ∧ (partAt State.reset p).wdog = 65536 ∧
    (partAt State.reset p).chain = 0x1F) ∧
  State.reset.ctxs = [] ∧ State.reset.tasks = [] ∧
  Memory.wf State.reset.mem ∧ x0Zero State.reset ∧ ctxsWithin State.reset

/-- Memory is in its canonical form at reset, x0 is zero, and no context exceeds its limits; and every step keeps x0 zero
and, of every sequencer, at most six loops and sixteen cached registers and, of every context, at most eight masks (R69,
R74, R76, R84). -/
def Obligations.ResetGood : Prop :=
  (Memory.wf State.reset.mem ∧ x0Zero State.reset ∧ ctxsWithin State.reset) ∧
  (∀ s t : State, x0Zero s → step s = .next t → x0Zero t) ∧
  (∀ s t : State, ctxsWithin s → step s = .next t → ctxsWithin t)

/-- Every step keeps the canonical form of memory: rising addresses, no byte equal to what an unlisted one reads as. -/
def Obligations.MemoryFormKept : Prop :=
  ∀ s t : State, Memory.wf s.mem → step s = .next t → Memory.wf t.mem

/-! ## Scalar registers -/

/-- x0 reads 0 and discards writes; another register reads what was written, if it has not died since; a dead register reads
0; no register changes with another; the register cache holds at most sixteen registers, one just touched among them (R52,
R69, R84). -/
def Obligations.ScalarRegisters : Prop :=
  ∀ (q : Seq) (i j : BitVec 5) (v : Word),
    xRead q 0 = 0 ∧ xRead (xWrite q 0 v) j = xRead q j ∧
    (i ≠ 0 → xRead (xWrite q i v) j = if j = i then v else xRead q j) ∧
    xRead (xKill q i) j = (if j = i then 0 else xRead q j) ∧
    xRead (rcTouch q i) j = xRead q j ∧
    (i ≠ 0 → q.rc.length ≤ 16 →
      (rcTouch q i).rc.length ≤ 16 ∧ i ∈ (rcTouch q i).rc ∧ (xWrite q i v).rc.length ≤ 16 ∧ i ∈ (xWrite q i v).rc ∧
      (xWrite q i v).live.getLsbD i.toNat = true)

/-- THE FRAME of a scalar result: what an instruction that reads `ops`, writes `v` to `d` and retires leaves alone. Memory
and every part of the state but the executing context and its hart slot's counters stay, but for what the walk of a store
stream's push leaves; the other sequencer, the vector state, the mask stack, the tiles, every register but `d` and those
marked dead, and every queue and binding that no operand names stay; the sequencer runs on, the PC follows EndCheck, the
last-result file shifts, and the register cache takes in no register that is not named (R52, R73, R84, R92, R104). That a
pop drops the reads made ahead is the model's reading of an acquire (log entry 4). -/
def Obligations.ScalarFrame : Prop :=
  ∀ (s : State) (ops : List Opnd) (d : Spec) (v : Word), inSlot s → classOk s.cur.side .sdst d = true →
    let t := retire (writeDst (afterReads s ops) d v)
    let key := curKey s
    let c := ctxAt s key
    let c' := ctxAt t key
    let q := seqOf c s.cur.side
    let q' := seqOf c' s.cur.side
    let u := match d with
      | .q i => (pushTarget (afterReads s ops) i).1
      | _ => s
    let named := fun (j : BitVec 5) => (∃ l, d = .x l j) ∨ ∃ o ∈ ops, ∃ l, o.sp = .x l j
    let marked := fun (j : BitVec 5) => ∃ o ∈ ops, isSource o.cls = true ∧ o.sp = .x true j
    t = { u with slots := t.slots, ctxs := t.ctxs, ids := t.ids } ∧
    (∀ k, k ≠ key → ctxAt t k = ctxAt s k) ∧ (∀ n, n ≠ s.cur.slot → slotAt t n = slotAt s n) ∧
    (∃ pm cnt lim, slotAt t s.cur.slot = { slotAt s s.cur.slot with pm := pm, wdogCount := cnt, wdogLimit := lim }) ∧
    c' = { c with a := c'.a, x := c'.x, q := c'.q, w := c'.w, binds := c'.binds } ∧
    (∀ sd, sd ≠ s.cur.side → seqOf c' sd = seqOf c sd) ∧
    q'.pc = (endCheck q.pc q.loops).1 ∧ q'.loops = (endCheck q.pc q.loops).2.1 ∧ q'.rl = q.rl ∧ q'.tl = q.tl ∧
    q'.fences = q.fences ∧ q'.status = .running ∧ q'.why = .none ∧ q'.atBound = (endCheck q.pc q.loops).2.2 ∧
    (∀ e ∈ q'.late, ∃ f ∈ q.late, e = { f with back := f.back + 1 }) ∧
    q'.ahead = (if popsAny ops then [] else q.ahead) ∧ q'.acq = (if popsAny ops then s.ids else q.acq) ∧
    (∀ i : BitVec 5, i ≠ 0 → d = .x false i → xRead q' i = v) ∧
    (∀ i : BitVec 5, (∀ l, d ≠ .x l i) → (¬ marked i → xRead q' i = xRead q i) ∧ (marked i → xRead q' i = 0)) ∧
    (∀ j ∈ q'.rc, j ∈ q.rc ∨ named j) ∧ (∀ j ∈ q'.evicted, j ∈ q.evicted ∨ j ∈ q.rc ∨ named j) ∧
    (∀ i : BitVec 2, d ≠ .q i → (∀ o ∈ ops, o.sp ≠ .q i) → qOf c' i = qOf c i ∧ bindOf c' i = bindOf c i) ∧
    (∀ i : BitVec 1, (∀ o ∈ ops, o.sp ≠ .w i) → wOf c' i = wOf c i) ∧
    (∀ i : Fin 32, (∀ l, d ≠ .x l (BitVec.ofFin i)) → q'.x[i] = q.x[i]) ∧
    (∀ i : BitVec 3, d = .o i → q'.o[i.toNat]'i.isLt = v) ∧ (∀ i : BitVec 3, d ≠ .o i → q'.o[i.toNat]'i.isLt = q.o[i.toNat]'i.isLt) ∧
    q'.l = #v[if d = .x false 0 then 0 else v, q.l[0], q.l[1], q.l[2]]

/-! ## Integer instructions (R94 to R97) -/

/-- Each register-format integer instruction of two sources answers the state with its result written (R94, R95). -/
def Obligations.IntegerOps : Prop :=
  ∀ (s : State) (d a b : Spec),
    let ops := [opD .sdst d, opA .ssrc a, opB .ssrc b]
    let x := operandValue s ops 1
    let y := operandValue s ops 2
    operandsReady s ops = true →
    ∀ p ∈ ([(.add d a b, x + y), (.sub d a b, x - y), (.and d a b, x &&& y), (.or d a b, x ||| y), (.xor d a b, x ^^^ y),
        (.shl d a b, x <<< (y.toNat % 64)), (.shr d a b, x >>> (y.toNat % 64)), (.sar d a b, x.sshiftRight (y.toNat % 64)),
        (.mul d a b, x * y), (.mulh d a b, BitVec.ofInt 64 (x.toInt * y.toInt / 2 ^ 64)),
        (.mulhu d a b, BitVec.ofNat 64 (x.toNat * y.toNat / 2 ^ 64)),
        (.div d a b, if y = 0 then BitVec.allOnes 64 else BitVec.ofInt 64 (x.toInt.tdiv y.toInt)),
        (.divu d a b, if y = 0 then BitVec.allOnes 64 else BitVec.ofNat 64 (x.toNat / y.toNat)),
        (.mod d a b, if y = 0 then x else BitVec.ofInt 64 (x.toInt - y.toInt * x.toInt.tdiv y.toInt)),
        (.modu d a b, if y = 0 then x else BitVec.ofNat 64 (x.toNat % y.toNat)),
        (.min d a b, if y.toInt < x.toInt then y else x), (.max d a b, if x.toInt < y.toInt then y else x),
        (.minu d a b, if y.toNat < x.toNat then y else x), (.maxu d a b, if x.toNat < y.toNat then y else x),
        (.slt d a b, if x.toInt < y.toInt then 1 else 0), (.sltu d a b, if x.toNat < y.toNat then 1 else 0),
        (.seq d a b, if x = y then 1 else 0)] : List (Instr × Word)),
      exec p.1 s = .next (retire (writeDst (afterReads s ops) d p.2))

/-- The instructions of one source, with or without an immediate, answer the state with their result written (R94, R96,
R97); those with a constraint on a field do so when it holds, and a shift count outside 0 to 63 faults ILLEGAL_OPERAND
(R96). The counts of `clz`, `ctz` and `popc` are the bits above the highest set bit, below the lowest one, and set. -/
def Obligations.IntegerUnaryOps : Prop :=
  (∀ x : Word,
    (x = 0 → leadingZeros x = 64 ∧ trailingZeros x = 64) ∧
    (x ≠ 0 → (leadingZeros x).toNat < 64 ∧ x.getLsbD (63 - (leadingZeros x).toNat) = true ∧
      (∀ i, 63 - (leadingZeros x).toNat < i → x.getLsbD i = false) ∧
      x.getLsbD (trailingZeros x).toNat = true ∧ ∀ i, i < (trailingZeros x).toNat → x.getLsbD i = false) ∧
    (countOnes x).toNat = (List.range 64).countP (fun i => x.getLsbD i)) ∧
  ∀ (s : State) (d a : Spec) (imm : BitVec 32) (w : BitVec 2),
    let ops := [opD .sdst d, opA .ssrc a]
    let x := operandValue s ops 1
    let y : Word := imm.signExtend 64
    operandsReady s ops = true →
    (∀ p ∈ ([(.mv d a, x), (.clz d a, leadingZeros x), (.ctz d a, trailingZeros x), (.popc d a, countOnes x),
        (.addi d a imm, x + y), (.andi d a imm, x &&& y), (.ori d a imm, x ||| y), (.xori d a imm, x ^^^ y),
        (.lih d a imm, imm ++ x.extractLsb' 0 32)] : List (Instr × Word)),
      exec p.1 s = .next (retire (writeDst (afterReads s ops) d p.2))) ∧
    (imm.toNat < 64 →
      ∀ p ∈ ([(.shli d a imm, x <<< imm.toNat), (.shri d a imm, x >>> imm.toNat),
          (.sari d a imm, x.sshiftRight imm.toNat)] : List (Instr × Word)),
        exec p.1 s = .next (retire (writeDst (afterReads s ops) d p.2))) ∧
    (64 ≤ imm.toNat → ∀ i ∈ ([.shli d a imm, .shri d a imm, .sari d a imm] : List Instr),
      exec i s = .next (raiseFault s ⟨0x02, 0, s.cur.word, 6, 0, none⟩)) ∧
    (w ≠ 3 →
      exec (.sext d a w) s =
        .next (retire (writeDst (afterReads s ops) d ((x.extractLsb' 0 (8 * 2 ^ w.toNat)).signExtend 64))) ∧
      exec (.zext d a w) s =
        .next (retire (writeDst (afterReads s ops) d ((x.extractLsb' 0 (8 * 2 ^ w.toNat)).zeroExtend 64)))) ∧
    (operandsReady s [opD .sdst d] = true →
      exec (.li d imm) s = .next (retire (writeDst (afterReads s [opD .sdst d]) d y)))

/-! ## Scalar FP32 (R98 to R100) -/

/-- The scalar FP32 instructions answer the state with their result written: the rounded exact result, the ordered minimum
or maximum, or 1 where the comparison holds; an immediate source is taken as its value (R92, R98, R99). −0 orders below
+0, a NaN operand gives the canonical NaN, and a comparison holds +0 equal to −0 and answers nothing but `un` for NaN
(R26, R99). -/
def Obligations.ScalarFloat : Prop :=
  (∀ (s : State) (d a b cc : Spec),
    let ops := [opD .sdst d, opA .ssrc a, opB .ssrc b]
    let x := f32Src a (operandValue s ops 1)
    let y := f32Src b (operandValue s ops 2)
    (operandsReady s ops = true →
      ∀ p ∈ ([(.fadd d a b, f32Of (fvAdd x y)), (.fsub d a b, f32Of (fvSub x y)), (.fmul d a b, f32Of (fvMul x y)),
          (.fmin d a b, f32Of (fvMin x y)), (.fmax d a b, f32Of (fvMax x y)),
          (.fcmpEq d a b, if fvEq x y then 1 else 0), (.fcmpLt d a b, if fvLt x y then 1 else 0),
          (.fcmpLe d a b, if fvLe x y then 1 else 0),
          (.fcmpUn d a b, if fvIsNaN x || fvIsNaN y then 1 else 0)] : List (Instr × Word)),
        exec p.1 s = .next (retire (writeDst (afterReads s ops) d p.2))) ∧
    (let ops := [opD .sdst d, opA .ssrc a, opB .ssrc b, opC .ssrc cc]
     operandsReady s ops = true →
      exec (.ffma d a b cc) s = .next (retire (writeDst (afterReads s ops) d
        (f32Of (fvAdd (fvMul (f32Src a (operandValue s ops 1)) (f32Src b (operandValue s ops 2)))
          (f32Src cc (operandValue s ops 3))))))) ∧
    (∀ dt st : BitVec 4, dt ≠ 0 → dt ≠ 14 → dt ≠ 15 → st ≠ 0 → st ≠ 14 → st ≠ 15 →
      let ops := [opD .sdst d, opA .ssrc a]
      let x := typedSrc (tyOfCode st) a (operandValue s ops 1)
      let r := convert (valueOf (tyOfCode st) x.1) (tyOfCode dt)
      operandsReady s ops = true →
      exec (.fcvt d a dt st) s =
        .next (retire (writeDst (curSat (afterReads s ops) 5 (x.2 + r.2)) d (scalarOf (tyOfCode dt) r.1))))) ∧
  f32Of (fvMin (f32Val 0x80000000) (f32Val 0)) = 0x80000000 ∧ f32Of (fvMin (f32Val 0) (f32Val 0x80000000)) = 0x80000000 ∧
  f32Of (fvMax (f32Val 0x80000000) (f32Val 0)) = 0 ∧ f32Of (fvMax (f32Val 0) (f32Val 0x80000000)) = 0 ∧
  fvEq (f32Val 0) (f32Val 0x80000000) = true ∧
  (∀ x y : FV, (fvIsNaN x = true ∨ fvIsNaN y = true) →
    f32Of (fvMin x y) = 0x7FC00000 ∧ f32Of (fvMax x y) = 0x7FC00000 ∧ fvEq x y = false ∧ fvLt x y = false ∧
    fvLe x y = false)

/-! ## Branches, jumps and loops (R47, R101 to R112) -/

/-- R47: a relative target is the address of the instruction that holds the offset plus 8 × the sign-extended offset, and a
jump without a link goes there. -/
def Obligations.RelativeTarget : Prop :=
  (∀ (pc : Word) (off : BitVec 32), relTarget pc off.toInt = pc + 8 * off.signExtend 64) ∧
  (∀ (pc : Word) (off : BitVec 18), relTarget pc off.toInt = pc + 8 * off.signExtend 64) ∧
  (∀ (s : State) (off : BitVec 32), inSlot s → operandsReady s [opD .link (.x false 0)] = true →
    ∃ t, exec (.jal (.x false 0) off) s = .next t ∧ (curSeq t).pc = (curSeq s).pc + 8 * off.signExtend 64)

/-- A conditional branch whose condition holds goes to its target and leaves the loops whose body does not hold the target;
one whose condition fails goes on by EndCheck (R101, R104, R105). `bout` pushes its comparison's outcome to bq, `bin` pops
the oldest and branches where it is true, and `bmz` branches where no bit of m below sw.vl is set (R110 to R112). -/
def Obligations.Branches : Prop :=
  (∀ (s : State) (a b : Spec) (off : BitVec 32),
    let ops := [opD .ssrc a, opA .ssrc b]
    let x := operandValue s ops 0
    let y := operandValue s ops 1
    operandsReady s ops = true →
    ∀ p ∈ ([(.bEq a b off, decide (x = y)), (.bNe a b off, decide (x ≠ y)), (.bLt a b off, decide (x.toInt < y.toInt)),
        (.bGe a b off, decide (y.toInt ≤ x.toInt)), (.bLtu a b off, decide (x.toNat < y.toNat)),
        (.bGeu a b off, decide (y.toNat ≤ x.toNat))] : List (Instr × Bool)),
      exec p.1 s = .next (if p.2 then retireTo (afterReads s ops) (relTarget (curSeq s).pc off.toInt)
        else retire (afterReads s ops))) ∧
  (∀ (s : State) (a b : Spec),
    let ops := [opD .bqName .bq, opA .ssrc a, opB .ssrc b]
    let x := operandValue s ops 1
    let y := operandValue s ops 2
    operandsReady s ops = true → (curCtx s).bq.length < 64 → streamStores (curCtx s) s.cur.side s.ids = false →
    ∀ p ∈ ([(.boutEq .bq a b, decide (x = y)), (.boutNe .bq a b, decide (x ≠ y)),
        (.boutLt .bq a b, decide (x.toInt < y.toInt)), (.boutGe .bq a b, decide (y.toInt ≤ x.toInt)),
        (.boutLtu .bq a b, decide (x.toNat < y.toNat)), (.boutGeu .bq a b, decide (y.toNat ≤ x.toNat))] :
        List (Instr × Bool)),
      exec p.1 s = .next (retire (modCur (afterReads s ops) (fun c => { c with bq := c.bq ++ [p.2] })))) ∧
  (∀ (s : State) (off : BitVec 32) (o : Bool) (r : List Bool),
    let ops := [opD .bqName .bq]
    operandsReady s ops = true → (curCtx s).bq = o :: r →
    let u := modSeq (modCur (afterReads s ops) (fun c => { c with bq := r })) (fun q => { q with ahead := [], acq := s.ids })
    exec (.bin .bq off) s = .next (
      if o then retireTo u (relTarget (curSeq s).pc off.toInt) else retire u)) ∧
  (∀ (s : State) (off : BitVec 32),
    let ops := [opD .mName .m]
    operandsReady s ops = true → okRes (needVector s) = true →
    exec (.bmz .m off) s = .next
      (if (List.range (curCtx s).vl.toNat).all (fun i => !maskBit (curCtx s) i) then
        retireTo (afterReads s ops) (relTarget (curSeq s).pc off.toInt) else retire (afterReads s ops)))

/-- `jal` and `jr` write the address of the next word to their link register and go to their target: a call keeps the loop
stack, a jump that links to x0 leaves loops by ExitCheck; a target of `jr` off its alignment faults (R102, R105). -/
def Obligations.Jumps : Prop :=
  ∀ (s : State) (d a : Spec) (off : BitVec 32),
    let link (t : State) : State := writeDst t d ((curSeq s).pc + 8)
    let go (t : State) (target : Word) : State :=
      if d = .x false 0 then retireTo (link t) target else retireCall (link t) target
    (operandsReady s [opD .link d] = true →
      exec (.jal d off) s = .next (go (afterReads s [opD .link d]) (relTarget (curSeq s).pc off.toInt))) ∧
    (let ops := [opD .link d, opA .jsrc a]
     let target := operandValue s ops 1
     operandsReady s ops = true →
      (target.toNat % 8 = 0 → exec (.jr d a) s = .next (go (afterReads s ops) target)) ∧
      (target.toNat % 8 ≠ 0 → exec (.jr d a) s = .next (raiseFault s ⟨0x04, target, 0, 0, 0, none⟩)))

/-- `loop` pushes an entry for its body, or goes past it where the count is 0; a seventh entry faults LOOP_OVERFLOW (R103).
`sbr` advances its registers by the elements of one strip and branches while some are left (R109). -/
def Obligations.Loops : Prop :=
  (∀ (s : State) (n : Spec) (p : Bool) (off : BitVec 32),
    let ops := [opD .ssrc n]
    let q := curSeq s
    let last := relTarget q.pc off.toInt
    let count := operandValue s ops 0
    operandsReady s ops = true → 1 ≤ off.toInt → q.loops.head?.map LoopEntry.last ≠ some q.pc →
    (count = 0 → exec (.loop n p off) s = .next (retireAt (afterReads s ops) last)) ∧
    (count ≠ 0 → q.loops.length < 6 → exec (.loop n p off) s = .next (retired (afterReads s ops) (fun r =>
      { r with pc := q.pc + 8, atBound := false, loops := ⟨0, count - 1, q.pc + 8, last, p⟩ :: r.loops }))) ∧
    (count ≠ 0 → 6 ≤ q.loops.length → exec (.loop n p off) s = .next (raiseFault s ⟨0x0C, 0, 0, 0, 0, none⟩))) ∧
  (∀ (s : State) (cnt r1 r2 r3 r4 : BitVec 5) (n : BitVec 2) (na : Bool) (sh : BitVec 2) (off : BitVec 18),
    let adv := if na then [] else [r1, r2, r3, r4].take (n.toNat + 1)
    let ops := (cnt :: adv).map (fun i => opD .ssrc (.x false i))
    let q := curSeq s
    let k := min (xRead q cnt).toNat (1024 * (curCtx s).slices / 2 ^ sh.toNat)
    let rest : Word := BitVec.ofNat 64 ((xRead q cnt).toNat - k)
    operandsReady s ops = true → (cnt :: adv).Nodup → (curCtx s).slices ≠ 0 →
    ∃ t, exec (.sbr cnt r1 r2 r3 r4 n na sh off) s = .next t ∧
      t = (let u := modSeq (modSeq (afterReads s ops) (fun r =>
              adv.foldl (fun r i => xWrite r i (xRead q i + BitVec.ofNat 64 (k * 2 ^ sh.toNat))) r))
            (fun r => lShift (xWrite r cnt rest) rest)
           if rest ≠ 0 then retireTo u (relTarget q.pc off.toInt) else retire u))

/-! ## System instructions and faults (R55, R57, R79 to R82, R113 to R117, R352 to R355) -/

/-- `nop`, `live`, `sget` and `sset` answer the state the rules give: `live` makes dead the registers of its sequencer whose
bit is clear (R116), a state word is read, or written where software may (R80, R114, R115); a read-only word faults
ACCESS_DENIED and a number that names no word ILLEGAL_OPERAND (R80). A word reads back what was written: sw.vl at most the
lanes of the hart's slices, the pool and prism bases at a multiple of 64, sw.evmask its six bits (R79, Table 4.2). -/
def Obligations.SystemInstructions : Prop :=
  (∀ s : State, exec .nop s = .next (retire s)) ∧
  (∀ (s : State) (mask : BitVec 32),
    exec (.live mask) s = .next (retire (modSeq s (fun q => { q with live := q.live &&& mask })))) ∧
  (∀ (q : Seq) (mask : BitVec 32) (i : BitVec 5),
    xRead { q with live := q.live &&& mask } i = if mask.getLsbD i.toNat then xRead q i else 0) ∧
  (∀ (s : State) (d : Spec) (num : BitVec 12) (v : Word),
    operandsReady s [opD .sdst d] = true → stateWord s num.toNat = some v →
    (xOnlyWord num.toNat = true → s.cur.side = .x) → (num = 0x010 → okRes (vectorReady s) = true) →
    exec (.sget d num) s = .next (retire (writeDst (afterReads s [opD .sdst d]) d v))) ∧
  (∀ (s : State) (a : Spec) (num : BitVec 12),
    let ops := [opA .ssrc a]
    operandsReady s ops = true →
    (stateWord s num.toNat = none →
      exec (.sset num a) s = .next (raiseFault s ⟨0x02, 0, s.cur.word, 5, 0, none⟩)) ∧
    (stateWord s num.toNat ≠ none → (xOnlyWord num.toNat = true → s.cur.side = .x) →
      (rwWord num.toNat = false → exec (.sset num a) s = .next (raiseFault s ⟨0x06, 0, 0, 0, 0, none⟩)) ∧
      (rwWord num.toNat = true → (num = 0x010 → okRes (vectorReady s) = true) →
        exec (.sset num a) s = .next (retire (writeWord (afterReads s ops) num.toNat (operandValue s ops 0)))))) ∧
  (∀ (s : State) (num : Nat) (v : Word), rwWord num = true →
    stateWord (writeWord s num v) num = some
      (if num = 0x010 then BitVec.ofNat 64 (min v.toNat (256 * (curCtx s).slices))
       else if num = 0x031 ∨ num = 0x033 then v &&& ~~~63#64
       else if num = 0x035 then v &&& 0x5F#64 else v))

/-- `trap` and `brk` take SOFTWARE_TRAP with their code, an unassigned word takes ILLEGAL_OPCODE with the word, and a word
that cannot be fetched takes the fault of its fetch (R57, R58, R117, R352). -/
def Obligations.Traps : Prop :=
  (∀ (s : State) (code : BitVec 15),
    exec (.trap code) s = .next (raiseFault s ⟨0x13, 0, 0, code.zeroExtend 16, 0, none⟩) ∧
    exec (.brk code) s = .next (raiseFault s ⟨0x13, 0, 0, 0x8000#16 + code.zeroExtend 16, 0, none⟩)) ∧
  (∀ (s : State) (w : Word), exec (.illegalOpcode w) s = .next (raiseFault s ⟨0x01, 0, w, 0, 0, none⟩)) ∧
  (∀ (s : State) (f : FaultReq) (g : State → State),
    (fetchWord s = .error (.fault f) → exec .instructionFetchFault s = .next (raiseFault s f)) ∧
    (fetchWord s = .error (.walkFault f g) → exec .instructionFetchFault s = .next (raiseFault (g s) f)))

/-- TAKING A FAULT: the first fault of a context fills its record, with the PC of the faulting word, and a later one sets MF
only; the fault that raises the partition's halt line carries FL; the sequencer stops with every register as it was, stalled
on nothing (Table 16.5), and nothing else changes (R59, R352 to R355). -/
def Obligations.FaultEntry : Prop :=
  ∀ (s : State) (f : FaultReq),
    let t := raiseFault s f
    let c := curCtx s
    let p := partAt s c.part
    let c' := ctxAt t (curKey s)
    t = { s with ctxs := t.ctxs, parts := t.parts } ∧
    (∀ k, k ≠ curKey s → ctxAt t k = ctxAt s k) ∧ (∀ n, n ≠ c.part → partAt t n = partAt s n) ∧
    partAt t c.part = { p with line := true, fl := if p.line then p.fl else some (curKey s) } ∧
    c' = { c with a := c'.a, x := c'.x, fault := c'.fault, mf := c'.mf } ∧
    seqOf c' s.cur.side = { curSeq s with status := .faulted, why := .none } ∧
    (∀ sd, sd ≠ s.cur.side → seqOf c' sd = seqOf c sd) ∧
    (c.fault = none → c'.mf = c.mf ∧ c'.fault = some
      { code := f.code, sq := s.cur.side, slot := BitVec.ofNat 12 s.cur.slot, e := false, fl := !p.line, lvl := f.lvl,
        time := BitVec.ofNat 64 s.now, pc := (curSeq s).pc, addr := f.addr, val := f.val, info := f.info,
        probe := f.probe, cmd := none }) ∧
    (∀ g, c.fault = some g → c'.fault = some g ∧ c'.mf = true)

/-! ## Vector instructions (R118 to R155) -/

/-- The common start of a vector instruction answers where its operands are ready, its hart holds slices that are its own,
and its sources, not all immediates, have one tag that each position accepts (R75, R126, R127, R129). -/
def Obligations.VectorStart : Prop :=
  ∀ (s : State) (ops : List Opnd) (src : List VSrc) (T : ETy),
    operandsReady s ops = true → (curCtx s).slices ≠ 0 → okRes (vectorReady s) = true →
    (src ≠ [] → ∃ v ∈ src, isImm v.op.sp = false) → (src = [] → T = .none) →
    (∀ v ∈ src, srcTag (curCtx s) ops T v = T ∧ v.acc T = true ∧ T ≠ .none ∧ (isImm v.op.sp = true → tyNumeric T = true)) →
    vecStart s ops (.ok ()) (.ok ()) true src =
      .ok ⟨afterReads s ops, curCtx s, ops, srcValues (curCtx s) (curSeq s) [] ops, T, src.map (fun _ => T)⟩

/-- What a vector result does to its register: an element with a result takes its low bits, an inactive element and those beyond
the length keep theirs, the tag is the result's; no other register changes. Where a saturation writes an event, of memory the
record and its counter change and no other byte, and of the contexts what that counter's waiters take from it (R37, R277, R339);
where none does, memory stays and every other context (R119, R128, R129). A vector load leaves in a v register the elements read
over those it held; on a w queue a new entry, zero where nothing was read (R188 to R190). -/
def Obligations.VectorResult : Prop :=
  (∀ (t : ETy) (l : List Byte) (vals : List (Option Word)) (m : Nat), vals.length ≤ m → m * elemBytes t ≤ l.length →
    (putElems t l vals).length = l.length ∧
    ∀ j, j < m → valAt (elemsOf t m (putElems t l vals)) j =
      match vals[j]? with
      | some (some w) => elemMask t w
      | _ => valAt (elemsOf t m l) j) ∧
  (∀ (i : VIn) (d : Spec) (t : ETy) (vals : List (Option Conv)) (cls imm : Nat),
    let u := vecWrite i d t vals cls imm
    let c1 : BitVec 5 → Ctx := fun r => { curCtx i.s with
      v := (curCtx i.s).v.set r.toNat ⟨t, putElems t (vregOf i.c d).data (vals.map (Option.map Prod.fst))⟩ r.isLt }
    let p := curPart i.s
    let base := (partAt i.s p).evlog.toNat
    let entry := base + 64 + 64 * (memNat i.s.mem base 8 % (partAt i.s p).evcap)
    u = { i.s with slots := u.slots, ctxs := u.ctxs, mem := u.mem, evq := u.evq, sets := u.sets, free := u.free,
                   parts := u.parts, chan := u.chan, waiters := u.waiters, links := u.links, out := u.out } ∧
    curKey u = curKey i.s ∧
    (∀ x, ¬(base ≤ x ∧ x < base + 8) → ¬(entry ≤ x ∧ x < entry + 64) → memByte u.mem x = memByte i.s.mem x) ∧
    ((partAt i.s p).configured = false ∨ (partAt i.s p).evmask.getLsbD 1 = false ∨ (slotAt i.s i.s.cur.slot).satthr = 0 ∨
        (∃ e ∈ i.s.evq, e.1 = p) ∨ eventReady i.s p = false →
      u = { i.s with slots := u.slots, ctxs := u.ctxs, evq := u.evq } ∧ (∀ k, k ≠ curKey i.s → ctxAt u k = ctxAt i.s k) ∧
      ∀ r, d = .v r → curCtx u = c1 r) ∧
    (∀ k, k ≠ curKey i.s → wokenOnly (ctxAt i.s k) (ctxAt u k)) ∧
    (∀ r, d = .v r → wokenOnly (c1 r) (curCtx u)) ∧
    ((∀ v ∈ vals, ∀ x, v = some x → x.2 = 0) → imm = 0 →
      u = { i.s with slots := u.slots, ctxs := u.ctxs } ∧ (∀ k, k ≠ curKey i.s → ctxAt u k = ctxAt i.s k) ∧
      ∀ r, d = .v r → curCtx u = c1 r)) ∧
  (∀ (s : State) (c : Ctx) (t : ETy) (vals : List (Option Word)),
    (∀ r : BitVec 5, writeLoad s c (.v r) t vals = setVreg s r ⟨t, putElems t (c.v[r.toNat]'r.isLt).data vals⟩) ∧
    (∀ j : BitVec 1, wOf (curCtx (writeLoad s c (.w j) t vals)) j = wOf (curCtx s) j ++
      [⟨t, putElems t (List.replicate (1024 * c.slices) 0) (vals.map (fun v => some (v.getD 0)))⟩]))

/-- Each element-wise instruction whose start answers writes, for every active element, its operation on the elements of
its sources (R128, R130 to R133, R139). -/
def Obligations.ElementWise : Prop :=
  ∀ (s : State) (k : Bool) (d a b cc : Spec) (i : VIn),
    let one (acc : ETy → Bool) : List VSrc := [⟨opA .vsrc a, acc⟩]
    let two (acc : ETy → Bool) : List VSrc := [⟨opA .vsrc a, acc⟩, ⟨opB .vsrc b, acc⟩]
    let three (acc : ETy → Bool) : List VSrc := [⟨opA .vsrc a, acc⟩, ⟨opB .vsrc b, acc⟩, ⟨opC .vsrc cc, acc⟩]
    let u (f : ETy → Word → Word) : ETy → List Word → Word := fun t r => f t (valAt r 0)
    let v (f : ETy → Word → Word → Word) : ETy → List Word → Word := fun t r => f t (valAt r 0) (valAt r 1)
    ∀ p ∈ ([(.vadd k d a b, two tagIF, v elAdd), (.vsub k d a b, two tagIF, v elSub), (.vmul k d a b, two tagIF, v elMul),
        (.vmulh k d a b, two tyInt, v elMulh), (.vmin k d a b, two tagIF, v elMin), (.vmax k d a b, two tagIF, v elMax),
        (.vand k d a b, two tagANY, v (fun _ x y => x &&& y)), (.vor k d a b, two tagANY, v (fun _ x y => x ||| y)),
        (.vxor k d a b, two tagANY, v (fun _ x y => x ^^^ y)), (.vshl k d a b, two tyInt, v elShl),
        (.vshr k d a b, two tyInt, v elShr), (.vsar k d a b, two tyInt, v elSar),
        (.vfma k d a b cc, three tagIF, fun t r => elFma t (valAt r 0) (valAt r 1) (valAt r 2)),
        (.vabs k d a, one tagIF, u elAbs), (.vneg k d a, one tagIF, u elNeg), (.vnot k d a, one tagANY, u (fun _ x => ~~~x)),
        (.vpopc k d a, one tyInt, u elPopc), (.vclz k d a, one tyInt, u elClz),
        (.vexp2 k d a, one tagFLT, u (elTrans fvExp2)), (.vlog2 k d a, one tagFLT, u (elTrans fvLog2)),
        (.vrcp k d a, one tagFLT, u (elTrans fvRcp)), (.vrsqrt k d a, one tagFLT, u (elTrans fvRsqrt)),
        (.vsqrt k d a, one tagFLT, u (elTrans fvSqrt)), (.vmov k d a, one tagANY, u (fun _ x => x))] :
        List (Instr × List VSrc × (ETy → List Word → Word))),
      vecStart s (opD .vreg d :: p.2.1.map VSrc.op) (.ok ()) (.ok ()) true p.2.1 = .ok i →
      let n := vlEff i.c [i.t0]
      let rows := rowsOf n (p.2.1.map (srcElems i.c i.ops i.t0 n))
      exec p.1 s = .next (retire (vecWrite i d i.t0
        (pickActive (activeList i.c k n) (rows.map (fun r => (p.2.2 i.t0 r, 0)))) 0 (immSats i.t0 p.2.1)))

/-- `vacq` takes the lowest aligned group of free slices, with sw.vl 0, an empty mask stack and registers without tags, and
answers 0, or answers 1 where every aligned group is taken in part, or faults ILLEGAL_OPERAND in a hart that holds slices;
`vrel` leaves the hart none, and does nothing where it has none; `vsetl` sets sw.vl and its destination to the least of its
source and VLMAX (R118, R122 to R124). -/
def Obligations.VectorConfiguration : Prop :=
  (∀ (s : State) (d : Spec) (n : BitVec 4),
    let ops := [opD .sdst d]
    operandsReady s ops = true → (curCtx s).slices = 0 → n = 1 ∨ n = 2 ∨ n = 4 ∨ n = 12 →
    let isFree (g : Nat) : Prop :=
      ∀ t ∈ slicesTaken s (poolOfCore (curCtx s).core) none, g + n.toNat ≤ t.1 ∨ t.1 + t.2 ≤ g
    ((∀ g, g % n.toNat = 0 → g + n.toNat ≤ 12 → ¬isFree g) →
      exec (.vacq d n) s = .next (retire (writeDst (afterReads s ops) d 1))) ∧
    (∀ g, g % n.toNat = 0 → g + n.toNat ≤ 12 → isFree g → (∀ h, h < g → h % n.toNat = 0 → ¬isFree h) →
      exec (.vacq d n) s = .next (retire (writeDst
        { modCur (afterReads s ops) (fun c => giveSlices c g n.toNat s.free) with free := s.free + 1 } d 0)))) ∧
  (∀ (s : State) (d : Spec) (n : BitVec 4), operandsReady s [opD .sdst d] = true → (curCtx s).slices ≠ 0 →
    exec (.vacq d n) s = .next (raiseFault s ⟨0x02, 0, s.cur.word, 6, 0, none⟩)) ∧
  (∀ (c : Ctx) (g n k : Nat) (i : Fin 32),
    let c' := giveSlices c g n k
    c'.slices = n ∧ c'.first = g ∧ c'.vl = 0 ∧ c'.masks = [] ∧ (c'.v[i]).tag = .none ∧
    (c'.v[i]).data.length = 1024 * n) ∧
  (∀ s : State, ((curCtx s).slices = 0 → exec .vrel s = .next (retire s)) ∧
    ((curCtx s).slices ≠ 0 → okRes (vectorReady s) = true →
      exec .vrel s = .next (retire (modCur s (fun c => giveSlices c 0 0 0))))) ∧
  (∀ (s : State) (d a : Spec) (w : BitVec 2),
    let ops := [opD .sdst d, opA .ssrc a]
    let vl : Word := BitVec.ofNat 64 (min (operandValue s ops 1).toNat (1024 * (curCtx s).slices / 2 ^ w.toNat))
    operandsReady s ops = true → okRes (vectorReady s) = true →
    exec (.vsetl d a w) s = .next (retire (writeDst (modCur (afterReads s ops) (fun c => { c with vl := vl })) d vl)))

/-- R125: `vtag` sets the tag of its register and leaves its bytes; code 0xF faults ILLEGAL_OPERAND, and a hart without
slices NO_VECTOR_CONTEXT. -/
def Obligations.VectorTag : Prop :=
  ∀ (s : State) (r : BitVec 5) (t : BitVec 4),
    let ops := [opD .vreg (.v r)]
    operandsReady s ops = true →
    (t = 15 → exec (.vtag (.v r) t) s = .next (raiseFault s ⟨0x02, 0, s.cur.word, 5, 0, none⟩)) ∧
    (t ≠ 15 → (curCtx s).slices = 0 → exec (.vtag (.v r) t) s = .next (raiseFault s ⟨0x0E, 0, 0, 0, 0, none⟩)) ∧
    (t ≠ 15 → (curCtx s).slices ≠ 0 → okRes (vectorReady s) = true →
      exec (.vtag (.v r) t) s = .next (retire (setVreg (afterReads s ops) r
        { (curCtx s).v[r.toNat]'r.isLt with tag := tyOfCode t })))

/-- R135 to R137, bit by bit: what `mpush`, `mset`, `minv` and `mpop` leave on the mask stack, what `mget` writes, and the
depths at which they fault MASK_STACK. -/
def Obligations.MaskStack : Prop :=
  ∀ s : State,
    let c := curCtx s
    let full : Host.Outcome State Fault Refusal := .next (raiseFault s ⟨0x0D, 0, 0, BitVec.ofNat 16 c.masks.length, 0, none⟩)
    (∀ (a : Spec) (i : VIn), vecStart s [opD .mName .m, opA .vsrc a] (.ok ()) (.ok ()) true [⟨opA .vsrc a, tyInt⟩] = .ok i →
      let n := vlEff c [i.t0]
      let el := srcElems i.c i.ops i.t0 n ⟨opA .vsrc a, tyInt⟩
      (8 ≤ c.masks.length → exec (.mpush .m a) s = full) ∧
      (c.masks.length < 8 → ∃ e : BitVec 12288,
        exec (.mpush .m a) s = .next (retire (modCur (curPm i.s 8 n) (fun c => { c with masks := e :: c.masks }))) ∧
        ∀ j, j < 12288 → e.getLsbD j = (decide (j < n) && decide (valAt el j ≠ 0) && maskBit c j)) ∧
      (c.masks = [] → exec (.mset .m a) s = full) ∧
      (c.masks ≠ [] → ∃ e : BitVec 12288,
        exec (.mset .m a) s = .next (retire (modCur (curPm i.s 8 n) (fun c => { c with masks := e :: c.masks.tail }))) ∧
        ∀ j, j < 12288 → e.getLsbD j = (decide (j < n) && decide (valAt el j ≠ 0)))) ∧
    (∀ i : VIn, vecStart s [opD .mName .m] (.ok ()) (.ok ()) true [] = .ok i →
      (c.masks = [] → exec (.minv .m) s = full ∧ exec (.mpop .m) s = full) ∧
      (c.masks ≠ [] → exec (.mpop .m) s = .next (retire (modCur i.s (fun c => { c with masks := c.masks.tail })))) ∧
      (∀ top rest, c.masks = top :: rest → ∃ e : BitVec 12288,
        exec (.minv .m) s = .next (retire (modCur i.s (fun c => { c with masks := e :: rest }))) ∧
        ∀ j, j < 12288 → e.getLsbD j =
          ((match rest with | [] => true | below :: _ => below.getLsbD j) && !top.getLsbD j && decide (j < c.vl.toNat)))) ∧
    (∀ (t : BitVec 4) (d : Spec) (i : VIn),
      (tyInt (tyOfCode t) = false → operandsReady s [opD .vreg d, opA .mName .m] = true →
        exec (.mget t d .m) s = .next (raiseFault s ⟨0x02, 0, s.cur.word, 5, 0, none⟩)) ∧
      (tyInt (tyOfCode t) = true → vecStart s [opD .vreg d, opA .mName .m] (.ok ()) (.ok ()) true [] = .ok i →
        exec (.mget t d .m) s = .next (retire (vecWrite i d (tyOfCode t)
          ((List.range (vlEff c [tyOfCode t])).map (fun j => some (if maskBit c j then 1 else 0, 0))) 0 0))))

/-- The comparisons push E[i] = Cmp(a[i], b[i]) AND Top(i), and `vsel` takes each element of one source or the other by
Top (R134, R138). -/
def Obligations.VectorCompare : Prop :=
  ∀ (s : State) (a b : Spec) (i : VIn),
    let src (acc : ETy → Bool) : List VSrc := [⟨opA .vsrc a, acc⟩, ⟨opB .vsrc b, acc⟩]
    let n := vlEff i.c [i.t0]
    let rows := rowsOf n ((src tagIF).map (srcElems i.c i.ops i.t0 n))
    let x (r : List Word) : FV := valueOf i.t0 (valAt r 0)
    let y (r : List Word) : FV := valueOf i.t0 (valAt r 1)
    (∀ p ∈ ([(.vcmpEq .m a b, tagIF, fun r => fvEq (x r) (y r)), (.vcmpNe .m a b, tagIF, fun r => !fvEq (x r) (y r)),
        (.vcmpLt .m a b, tagIF, fun r => fvLt (x r) (y r)), (.vcmpLe .m a b, tagIF, fun r => fvLe (x r) (y r)),
        (.vcmpGt .m a b, tagIF, fun r => fvLt (y r) (x r)), (.vcmpGe .m a b, tagIF, fun r => fvLe (y r) (x r)),
        (.vcmpUn .m a b, tagFLT, fun r => fvIsNaN (x r) || fvIsNaN (y r))] :
        List (Instr × (ETy → Bool) × (List Word → Bool))),
      vecStart s (opD .mName .m :: (src p.2.1).map VSrc.op) (.ok ()) (.ok ()) true (src p.2.1) = .ok i →
      i.c.masks.length < 8 → ∃ e : BitVec 12288,
        exec p.1 s = .next (retire (modCur (curPm (curSat i.s 0 (immSats i.t0 (src tagIF) * n)) 8 n)
          (fun c => { c with masks := e :: c.masks }))) ∧
        ∀ j, j < 12288 → e.getLsbD j = (decide (j < n) && p.2.2 (rows.getD j []) && maskBit i.c j)) ∧
    (∀ d : Spec,
      vecStart s (opD .vreg d :: (src tagANY).map VSrc.op) (.ok ()) (.ok ()) true (src tagANY) = .ok i →
      let takes := (topList i.c n).countP id
      let sats := immSats i.t0 ((src tagANY).take 1) * takes + immSats i.t0 ((src tagANY).drop 1) * (n - takes)
      exec (.vsel d a b) s = .next (retire (vecWrite { i with s := curSat i.s 0 sats } d i.t0
        (rows.zipIdx.map (fun r => some (if maskBit i.c r.2 then valAt r.1 0 else valAt r.1 1, 0))) 0 0)))

/-- The moves and permutes write, for every active element, the scalar (plus its index for `viota`) or the source element
their index names, zero bits where that element does not exist (R139 to R142). That an immediate of `vperm` counts its
saturations is the model's choice (log entry 70). -/
def Obligations.VectorMoves : Prop :=
  ∀ (s : State) (k : Bool) (d a b : Spec) (i : VIn),
    let put (j : VIn) (t : ETy) (vals : List Word) : Host.Outcome State Fault Refusal :=
      .next (retire (vecWrite j d t (pickActive (activeList j.c k vals.length) (vals.map (fun w => (w, 0)))) 0 0))
    let el (n : Nat) : List Word := srcElems i.c i.ops i.t0 n ⟨opA .vsrc a, tagANY⟩
    let n := vlEff i.c [i.t0]
    let take (j : Nat) : Word := if j < n then valAt (el n) j else 0
    (∀ t : BitVec 4, vecStart s [opD .vreg d, opA .ssrc a] (.ok ()) (.ok ()) true [] = .ok i →
      let m := vlEff i.c [tyOfCode t]
      (tagANY (tyOfCode t) = true →
        exec (.vbcast t k d a) s = put i (tyOfCode t) ((List.range m).map (fun _ => valAt i.vals 1))) ∧
      (tyInt (tyOfCode t) = true →
        exec (.viota t k d a) s = put i (tyOfCode t) ((List.range m).map (fun j => valAt i.vals 1 + BitVec.ofNat 64 j)))) ∧
    (vecStart s [opD .vreg d, opA .vsrc a] (.ok ()) (.ok ()) true [⟨opA .vsrc a, tagANY⟩] = .ok i →
      ∀ dist : BitVec 4, 2 ^ dist.toNat < vlmax i.c (elemBytes i.t0) →
        exec (.vxch k dist d a) s = put i i.t0 ((List.range n).map (fun j => take (j ^^^ 2 ^ dist.toNat)))) ∧
    (vecStart s [opD .vreg d, opA .vsrc a, opB .ssrc b] (.ok ()) (.ok ()) true [⟨opA .vsrc a, tagANY⟩] = .ok i →
      let by_ := (valAt i.vals 2).toNat
      exec (.vslideUp k d a b) s =
        put i i.t0 ((List.range n).map (fun j => if by_ ≤ j then take (j - by_) else 0)) ∧
      exec (.vslideDn k d a b) s = put i i.t0 ((List.range n).map (fun j => take (j + by_)))) ∧
    (let src : List VSrc := [⟨opA .vsrc a, tagANY⟩, ⟨opB .vsrc b, tagANY⟩]
     let ta := i.tags.getD 0 .none
     let tb := i.tags.getD 1 .none
     let m := vlEff i.c [ta]
     vecStart s (opD .vreg d :: src.map VSrc.op) (.ok ()) (.ok ()) false src = .ok i →
     tyInt tb = true → elemBytes ta = elemBytes tb →
     let ix := srcElems i.c i.ops i.t0 m ⟨opB .vsrc b, tagANY⟩
     let data := (List.zipWith (fun x (w : Word) => x && decide (w.toNat < m)) (activeList i.c k m) ix).countP id
     let sats := immSats i.t0 (src.take 1) * data + immSats i.t0 (src.drop 1) * (activeList i.c k m).countP id
     exec (.vperm k d a b) s =
       put { i with t0 := ta, s := curSat i.s 0 sats } ta (ix.map (fun w =>
         if w.toNat < m then valAt (el m) w.toNat else 0)))

/-- The reductions combine the active elements in the tree of R42 and answer the identity where there is none, to a scalar
or to element 0 of a register; the scans write the running value at each active element (R143, R144). -/
def Obligations.VectorReductions : Prop :=
  ∀ (s : State) (k : Bool) (d a : Spec) (i : VIn),
    let n := vlEff i.c [i.t0]
    let src (acc : ETy → Bool) : List VSrc := [⟨opA .vsrc a, acc⟩]
    let leaves : List (Option Word) := List.zipWith (fun x w => if x then some w else none) (activeList i.c k n)
      (srcElems i.c i.ops i.t0 n ⟨opA .vsrc a, tagANY⟩)
    (∀ p ∈ ([(.vredAdd k d a, .add, tagIF), (.vredMin k d a, .min, tagIF), (.vredMax k d a, .max, tagIF),
        (.vredAnd k d a, .and, tagANY), (.vredOr k d a, .or, tagANY), (.vredXor k d a, .xor, tagANY)] :
        List (Instr × RedOp × (ETy → Bool))),
      vecStart s [opD .redDst d, opA .vsrc a] (.ok ()) (.ok ()) true (src p.2.2) = .ok i →
      let r := (tree (redFun p.2.1 i.t0) leaves).getD (redIdentity p.2.1 i.t0)
      let u := curPm i.s 8 ((activeList i.c k n).countP id)
      exec p.1 s = .next (retire (match d with
        | .v j => setVreg u j ⟨i.t0, putElems i.t0 (vregOf i.c d).data [some r]⟩
        | _ => writeDst u d (scalarOf i.t0 r)))) ∧
    (∀ p ∈ ([(.vscanAdd k d a, .add, tagIF), (.vscanMin k d a, .min, tagIF), (.vscanMax k d a, .max, tagIF),
        (.vscanAnd k d a, .and, tagANY), (.vscanOr k d a, .or, tagANY), (.vscanXor k d a, .xor, tagANY)] :
        List (Instr × RedOp × (ETy → Bool))),
      vecStart s [opD .vreg d, opA .vsrc a] (.ok ()) (.ok ()) true (src p.2.2) = .ok i →
      exec p.1 s = .next (retire (vecWrite i d i.t0
        ((scanList (redFun p.2.1 i.t0) (redIdentity p.2.1 i.t0) leaves).map (Option.map (fun w => (w, 0)))) 0 0)))

/-- `vcvt`, `vqnt` and `vdq` write each active element converted from its exact value, the quotient or the product by the
scale; the lookup fallback adds table entries and 64-bit partial sums and scales them (R147 to R152). -/
def Obligations.VectorConversions : Prop :=
  ∀ (s : State) (k : Bool) (d a b cc : Spec) (i : VIn),
    let act (n : Nat) : List Bool := activeList i.c k n
    let el (n : Nat) : List Word := srcElems i.c i.ops i.t0 n ⟨opA .vsrc a, tyNumeric⟩
    let conv (t : ETy) (f : FV → FV) : Host.Outcome State Fault Refusal :=
      let n := vlEff i.c [i.t0, t]
      .next (retire (vecWrite i d t (pickActive (act n) ((el n).map (fun w => convert (f (valueOf i.t0 w)) t))) 0 0))
    (∀ t : BitVec 4, t ≠ 0 → t ≠ 14 → t ≠ 15 →
      vecStart s [opD .vreg d, opA .vsrc a] (.ok ()) (.ok ()) true [⟨opA .vsrc a, tyNumeric⟩] = .ok i →
      exec (.vcvt t k d a) s = conv (tyOfCode t) id) ∧
    (∀ t : BitVec 4, (tyOfCode t = .i8 ∨ tyOfCode t = .n8 ∨ tyOfCode t = .i16 ∨ tyOfCode t = .f8e4m3 ∨
        tyOfCode t = .f8e5m2 ∨ tyOfCode t = .f4e2m1) →
      vecStart s [opD .vreg d, opA .vsrc a, opB .ssrc b] (.ok ()) (.ok ()) true [⟨opA .vsrc a, tagFLT⟩] = .ok i →
      exec (.vqnt t k d a b) s = conv (tyOfCode t) (fun x => fvQuot x (f32Src b (valAt i.vals 2)))) ∧
    (∀ t : BitVec 4, tagFLT (tyOfCode t) = true →
      vecStart s [opD .vreg d, opA .vsrc a, opB .ssrc b] (.ok ()) (.ok ()) true [⟨opA .vsrc a, tyNumeric⟩] = .ok i →
      exec (.vdq t k d a b) s = conv (tyOfCode t) (fun x => fvMul x (f32Src b (valAt i.vals 2)))) ∧
    (vecStart s [opD .vreg d, opA .vsrc a] (.ok ()) (dTag s d .i64) true [⟨opA .vsrc a, fun t => t = .i32⟩] = .ok i →
      let n := vlEff i.c [.i64]
      exec (.vlutJ k d a) s = .next (retire (vecWrite i d .i64 (pickActive (act n)
        (List.zipWith (fun o w => (o + wrap64 (intOf .i32 w), 0)) (elemsOf .i64 n (vregOf i.c d).data) (el n))) 0 0))) ∧
    (vecStart s [opD .vreg d, opA .vsrc a, opB .ssrc b, opC .ssrc cc] (.ok ()) (.ok ()) true
        [⟨opA .vsrc a, fun t => t = .i32 || t = .i64⟩] = .ok i →
      let n := vlEff i.c [i.t0, .f32]
      let scale := f32Val ((slotOfCore s (valAt i.vals 3).toNat).scale.zeroExtend 64)
      let S := f32Val (f32Of (fvMul (f32Src b (valAt i.vals 2)) scale))
      exec (.vlutY k d a b cc) s = .next (retire (vecWrite i d .f32 (pickActive (act n) ((el n).map (fun w =>
        (f32Of (fvMul (fvOfInt (satInt32 (intOf i.t0 w)).1) S), (satInt32 (intOf i.t0 w)).2)))) 2 0))) ∧
    (∀ g : BitVec 4, g ≠ 0 →
      let src : List VSrc := [⟨opA .vsrc a, fun t => t = .cbx⟩, ⟨opB .vsrc b, fun t => t = .i8⟩]
      let c := (valAt i.vals 3).toNat
      let first := bitsOf c 16 16
      let book := slotOfCore s (c % 64)
      let bits := book.b.toNat * g.toNat
      vecStart s [opD .vreg d, opA .vsrc a, opB .vsrc b, opC .ssrc cc] (.ok ()) (dTag s d .i32) false src = .ok i →
      bitsOf c 6 10 = 0 → c < 2 ^ 32 → bits ≤ 8 → first + g.toNat ≤ vlmax i.c 1 →
      let n := vlEff i.c [.i32]
      let acts := ((srcElems i.c i.ops i.t0 (first + g.toNat) ⟨opB .vsrc b, fun t => t = .i8⟩).drop first).map (intOf .i8)
      exec (.vlutG g k d a b cc) s = .next (retire (vecWrite i d .i32 (pickActive (act n)
        (List.zipWith (fun o t => satWord (intOf .i32 o + groupEntry book acts (t.toNat % 2 ^ bits)))
          (elemsOf .i32 n (vregOf i.c d).data) (el n))) 2 0)))

/-- `vcmpr` keeps the elements of largest magnitude of each group of 32, in ascending order, with their mask; `vtopk` writes
the largest active elements and their indices, the rest of the indices 0xFFFFFFFF (R145, R146). A ranking is a permutation
of its elements in which none stands before one that ranks above it, nor, ranked alike, before one of a lower index. -/
def Obligations.VectorSelection : Prop :=
  (∀ (s : State) (n : BitVec 2) (d a b : Spec) (i : VIn), d ≠ b → n ≠ 3 →
    vecStart s [opD .vreg d, opA .vsrc a, opB .vreg b] (.ok ()) (.ok ()) true [⟨opA .vsrc a, tyNumeric⟩] = .ok i →
    let len := vlEff i.c [i.t0]
    len % 32 = 0 →
    let el := srcElems i.c i.ops i.t0 len ⟨opA .vsrc a, tyNumeric⟩
    let groups := (List.range (len / 32)).map (fun g => compressGroup i.t0 (4 * 2 ^ n.toNat) ((el.drop (32 * g)).take 32))
    let kept : List (Option Conv) := groups.flatMap (fun g => g.1.map (fun w => some (w, 0)))
    exec (.vcmpr n d a b) s = .next (retire (writeVreg
      (vecWrite { i with s := curPm i.s 8 (len - kept.length) } d i.t0 kept 0 0) b
      ⟨.n32, putElems .n32 (vregOf i.c b).data (groups.map (fun g => some (BitVec.ofNat 64 g.2)))⟩))) ∧
  (∀ (s : State) (k : Bool) (d a b cc : Spec) (i : VIn), d ≠ b →
    vecStart s [opD .vreg d, opA .vsrc a, opB .vreg b, opC .ssrc cc] (.ok ()) (.ok ()) true [⟨opA .vsrc a, tyNumeric⟩] =
      .ok i →
    let cnt := (valAt i.vals 3).toNat
    cnt ≤ vlmax i.c 4 → cnt ≤ vlmax i.c (elemBytes i.t0) →
    let n := vlEff i.c [i.t0]
    let act := activeList i.c k n
    let top := (rankList ((rankedOf i.t0 id 0 (srcElems i.c i.ops i.t0 n ⟨opA .vsrc a, tyNumeric⟩)).filter
      (fun r => act.getD r.ix false))).take cnt
    exec (.vtopk k d a b cc) s = .next (retire (writeVreg
      (writeVreg (curPm i.s 8 (act.countP id)) d
        ⟨i.t0, putElems i.t0 (vregOf i.c d).data (top.map (fun r => some r.pat))⟩) b
      ⟨.n32, putElems .n32 (vregOf i.c b).data (top.map (fun r => some (BitVec.ofNat 64 r.ix)) ++
        List.replicate (cnt - top.length) (some 0xFFFFFFFF))⟩))) ∧
  (∀ (t : ETy) (key : FV → FV) (el : List Word),
    let l := rankedOf t key 0 el
    (rankList l).Perm l ∧
    (rankList l).Pairwise (fun x y => ranksAbove y.key x.key = false ∧ (ranksAbove x.key y.key = false → x.ix < y.ix)))

/-! ## Memory instructions (R176 to R195, R206) -/

/-- The checks of an address change nothing but the walk counter, the focus and recall of the table lines a walk reads, the
record of that read, and the translation caches of the core and its cluster; of memory, only the bytes of lines that were
faceted, which the focus merges (R177, R244, R301 to R304). Of a scratchpad page read, write and user count alone (R168; that
R168 goes before R303 there is log entry 69). An answer names the window the page's address lies in, and the access is allowed
there. -/
def Obligations.AddressChecks : Prop :=
  ∀ (s t : State) (va : Word) (j : Nat) (n : Need) (h : Hit), access s va j n = .ok (t, h) →
    t = { s with slots := t.slots, mem := t.mem, poison := t.poison, partials := t.partials, notices := t.notices,
                 dir := t.dir, chan := t.chan, tlb := t.tlb, sets := t.sets, free := t.free } ∧
    curKey t = curKey s ∧
    (∀ x, isFaceted (dirAt s (lineOf x)) = false → memByte t.mem x = memByte s.mem x) ∧
    va.toNat < 2 ^ 48 ∧ h.va = va.toNat ∧ h.elem = j ∧
    targetAllowed t (curPart s) (curCore s) h.tgt = true ∧
    ∃ bits, (bits = 16 ∨ bits = 21 ∨ bits = 30 ∨
      ∃ e ∈ tlbOf s (curCore s) ++ tlbOf s (clusterTlb (clusterOfCore (curCore s))), bits = e.size) ∧
      h.tgt = window t (curCore s) (leafPa h.leaf bits va.toNat) ∧
      leafGrants h.leaf (needAt (leafPa h.leaf bits va.toNat) n) = true

/-- A scalar load reads its bytes little-endian and extends them; an address off its alignment faults MISALIGNED (R176,
R180). From a scratchpad it reads memory; from device memory what its home holds, once the home makes it wait for nothing,
or its cache's copy or the core's own DISJ copy; from the host's memory its cache's copy, with the core's own stores on their
way over it (R170, R178, R238, R246, R248). Bytes that were read ahead of their load are the load's instead, and a load may
perform after the accesses behind it (R220). Which reads are made ahead and which loads stay behind, that the stores of the
whole core lie over what it reads, and that a device line's copy holds the bytes of its home are the model's choices (log
entries 4, 5, 6). -/
def Obligations.ScalarLoads : Prop :=
  (∀ (s : State) (z : BitVec 2) (d a b : Spec) (off : BitVec 24),
    let ops := [opD .sdst d, opA .ssrc a, opB .ssrc b]
    let n := 2 ^ z.toNat
    let ea : Word := operandValue s ops 1 + operandValue s ops 2 * BitVec.ofNat 64 n + off.signExtend 64
    operandsReady s ops = true → okRes (mayAccess s .s) = true →
    (ea.toNat % n ≠ 0 → ∀ i ∈ ([.ld z d a b off, .ldS z d a b off, .ldNt z d a b off, .ldKeep z d a b off] : List Instr),
      exec i s = .next (raiseFault s ⟨0x04, ea, 0, 0, 0, none⟩)) ∧
    (∀ (t u : State) (h : Hit) (l : List Byte), ea.toNat % n = 0 → access (afterReads s ops) ea 0 needR = .ok (t, h) →
      ∀ p ∈ ([(.ld z d a b off, none, BitVec.ofNat 64 (leNat l)), (.ldNt z d a b off, some 0, BitVec.ofNat 64 (leNat l)),
          (.ldKeep z d a b off, some 3, BitVec.ofNat 64 (leNat l)),
          (.ldS z d a b off, none, (BitVec.ofNat (8 * n) (leNat l)).signExtend 64)] : List (Instr × Option Nat × Word)),
        loadBytes t (h.keptAt p.2.1) ea 0 n false = .ok (u, l) →
        exec p.1 s = .next (retire (writeDst (dropAnswers u) d p.2.2)))) ∧
  (∀ (t : State) (h : Hit) (va : Word) (j n pa : Nat) (vec : Bool),
    let line := lineOf pa
    let own (b : List Byte) : List Byte := overlay (coreWts t (curCore t)) pa b
    let home := homeLine t line (some t.cur.slot)
    let reads (b : List Byte) (m : List Host.Cell) : Prop :=
      ∃ u, loadBytes t h va j n vec = .ok (u, (aheadOf t pa n).getD b) ∧ u.mem = m
    (h.tgt = .scratch pa → poisoned t pa = false → reads (memRead t.mem pa n) t.mem) ∧
    (h.tgt = .device pa → ownAddOver t pa n = false →
      (∀ p, vec = false → ownDisj t pa n = some p → p.bad = 0 → reads (own (listSlice p.bytes (pa % 128) n)) t.mem) ∧
      (cacheHit t (cacheFor t vec) line = true → poisoned t pa = false → reads (own (memRead t.mem pa n)) t.mem) ∧
      ((vec = false → ownDisj t pa n = none) → cacheHit t (cacheFor t vec) line = false →
        (∀ g, homeHolds t (curAsker t) (curPart t) (curCore t) line false = some g →
          loadBytes t h va j n vec = .error (.wait g)) ∧
        (homeHolds t (curAsker t) (curPart t) (curCore t) line false = none → poisoned home pa = false →
          reads (own (memRead home.mem pa n)) home.mem))) ∧
    (h.tgt = .host pa → ownAddOver t pa n = false → ∀ hl, hostLineAt t line = some hl →
      hl.holders.contains (cacheFor t vec) = true → hl.ps = false →
      reads (own (listSlice hl.bytes (pa % 128) n)) t.mem) ∧
    (t.cur.strm = none → ∀ l, (aheadOf t pa n = some l ↔ ∃ e, (curSeq t).ahead.find?
      (fun e => e.1 ≤ pa && pa + n ≤ e.1 + e.2.length) = some e ∧ l = listSlice e.2 (pa - e.1) n)))

/-- A scalar store hands the low bytes of its source to the address it computes: into the scratchpad at once, where no
other byte changes, otherwise onto its way to the home with memory unchanged; an address off its alignment faults
MISALIGNED (R176, R180, R235). -/
def Obligations.ScalarStores : Prop :=
  (∀ (s : State) (z : BitVec 2) (d a b : Spec) (off : BitVec 24),
    let ops := [opD .ssrc d, opA .ssrc a, opB .ssrc b]
    let n := 2 ^ z.toNat
    let ea : Word := operandValue s ops 1 + operandValue s ops 2 * BitVec.ofNat 64 n + off.signExtend 64
    operandsReady s ops = true → okRes (mayAccess s .s) = true →
    ∀ i ∈ ([.st z d a b off, .stNt z d a b off, .stKeep z d a b off] : List Instr),
      (ea.toNat % n ≠ 0 → exec i s = .next (raiseFault s ⟨0x04, ea, 0, 0, 0, none⟩)) ∧
      (∀ (t : State) (h : Hit), ea.toNat % n = 0 → access (afterReads s ops) ea 0 needW = .ok (t, h) →
        exec i s = .next (retire (storeBytes t (h.keptAt (if i = .stNt z d a b off then some 0
          else if i = .stKeep z d a b off then some 3 else none)) .s (leBytes n (operandValue s ops 0).toNat))))) ∧
  (∀ (t : State) (h : Hit) (cls : AClass) (l : List Byte),
    let u := storeBytes t h cls l
    (∀ pa, h.tgt = .scratch pa → deviceEnd ≤ pa → memRead u.mem pa l.length = l ∧
      (∀ x, x < pa ∨ pa + l.length ≤ x → memByte u.mem x = memByte t.mem x) ∧
      u = { t with mem := u.mem, poison := u.poison, ctxs := u.ctxs, sets := u.sets, free := u.free }) ∧
    ((∀ pa, h.tgt ≠ .scratch pa) → u.mem = t.mem ∧
      u = { t with wts := u.wts, partials := u.partials, ids := u.ids, sets := u.sets, slots := u.slots, ctxs := u.ctxs }) ∧
    (∀ pa, h.tgt = .device pa ∨ h.tgt = .own pa → disjTakes t h.tgt cls l.length = none → l ≠ [] →
      pa % 128 + l.length ≤ 128 →
      tabGet u.wts t.ids = some { curWt t cls h with bytes := l } ∧ u.ids = t.ids + 1) ∧
    (∀ pa p, h.tgt = .device pa → disjTakes t h.tgt cls l.length = some p → u.wts = t.wts ∧
      (tabGet u.partials (partialKey (curCore t) (lineOf pa))).map Partial.bytes = some (listSet p.bytes (pa % 128) l))) ∧
  (∀ s : State, (retire s).mem = s.mem ∧ (retire s).wts = s.wts)

/-- An atomic reads its word, writes the value of its operation and answers the old one, sign-extended from 32 bits (R181,
R182); in a scratchpad no other byte changes. -/
def Obligations.Atomics : Prop :=
  (∀ (s : State) (d a b cc : Spec) (sz : BitVec 1),
    let n := if sz = 1 then 8 else 4
    let ops (l : List Opnd) := [opD .sdst d, opA .ssrc a, opB .ssrc b] ++ l
    ∀ p ∈ ([(.amoSwap d a b sz, .swap, []), (.amoCas d a b cc sz, .cas, [opC .ssrc cc]), (.amoAdd d a b sz, .add, []),
        (.amoAnd d a b sz, .and, []), (.amoOr d a b sz, .or, []), (.amoXor d a b sz, .xor, []), (.amoMin d a b sz, .min, []),
        (.amoMax d a b sz, .max, []), (.amoMinu d a b sz, .minu, []), (.amoMaxu d a b sz, .maxu, []),
        (.amoFadd d a b sz, .fadd, [])] : List (Instr × AtomicOp × List Opnd)),
      let va := operandValue s (ops p.2.2) 1
      let x := if p.2.1 = .fadd then (typedSrc .f32 b (operandValue s (ops p.2.2) 2)).1 else operandValue s (ops p.2.2) 2
      let y := operandValue s (ops p.2.2) 3
      operandsReady s (ops p.2.2) = true → okRes (mayAccess s .s) = true → (p.2.1 = .fadd → sz = 0) →
      (va.toNat % n ≠ 0 → exec p.1 s = .next (raiseFault s ⟨0x04, va, 0, 0, 0, none⟩)) ∧
      (∀ (t u : State) (h : Hit) (old : Word), va.toNat % n = 0 → access (afterReads s (ops p.2.2)) va 0 needRW = .ok (t, h) →
        rmw t h va n p.2.1 x y (fun o => amoOp p.2.1 n o x y) = .ok (u, old) →
        exec p.1 s = .next (retire (writeDst (dropAnswers u) d
          (if n = 4 ∧ p.2.1 ≠ .fadd then (old.extractLsb' 0 32).signExtend 64 else old))))) ∧
  (∀ (t : State) (h : Hit) (va : Word) (n pa : Nat) (op : AtomicOp) (x y : Word), n = 4 ∨ n = 8 →
    coreWtOver t (curCore t) pa n = false →
    let runs (m : State) (frame : State → Prop) : Prop :=
      let old : Word := BitVec.ofNat 64 (leNat (memRead m.mem pa n))
      poisoned m pa = false → ∃ u, rmw t h va n op x y (fun o => amoOp op n o x y) = .ok (u, old) ∧ frame u ∧
        (∀ v, amoOp op n old x y = some v → leNat (memRead u.mem pa n) = v.toNat % 256 ^ n) ∧
        (amoOp op n old x y = none → u.mem = m.mem) ∧
        (∀ k, k < pa ∨ pa + n ≤ k → memByte u.mem k = memByte m.mem k)
    (h.tgt = .scratch pa → deviceEnd ≤ pa → runs t (fun u =>
      u = { t with mem := u.mem, poison := u.poison, ctxs := u.ctxs, sets := u.sets, free := u.free })) ∧
    (h.tgt = .device pa → homeHolds t (curAsker t) (curPart t) (curCore t) (lineOf pa) true = none →
      runs (homeLine t (lineOf pa) (some t.cur.slot)) (fun u => u.wts = t.wts))) ∧
  (∀ x y c : Word, amoOp .add 8 x y c = some (x + y) ∧ amoOp .swap 8 x y c = some y ∧
    amoOp .cas 8 x y c = (if x = c then some y else none) ∧ amoOp .min 8 x y c = some (if y.toInt < x.toInt then y else x) ∧
    amoOp .maxu 8 x y c = some (if x.toNat < y.toNat then y else x))

/-- A reduction takes its core's partial of the line, the one its L1 holds or one the home grants it, and combines its operand
into the element there; at an address that is no facet page it faults ACCESS_DENIED (R183, R184, R239). An immediate operand of
`red.fadd32`, `red.faddbf16`, `red.fmax32` and `red.fmin32` is converted into their type, and one of the other reductions gives
its low bits, as R183 says of the operand: log entry 22. -/
def Obligations.FacetReductions : Prop :=
  ∀ (s : State) (a b : Spec) (sz : BitVec 1),
    let ops := [opA .ssrc a, opB .ssrc b]
    let w := if sz = 1 then 8 else 4
    let va := operandValue s ops 0
    let raw := operandValue s ops 1
    let asF32 := (typedSrc .f32 b raw).1
    operandsReady s ops = true → okRes (mayAccess s .s) = true →
    ∀ p ∈ ([(.redIadd32 a b, 1, 4, raw), (.redIadd64 a b, 2, 8, raw), (.redFadd32 a b, 3, 4, asF32),
        (.redFaddbf16 a b, 4, 2, (typedSrc .bf16 b raw).1), (.redImax32 a b, 5, 4, raw), (.redImin32 a b, 6, 4, raw),
        (.redNmax32 a b, 7, 4, raw), (.redNmin32 a b, 8, 4, raw), (.redFmax32 a b, 9, 4, asF32),
        (.redFmin32 a b, 10, 4, asF32), (.redOr a b sz, 11, w, raw), (.redAnd a b sz, 12, w, raw),
        (.redXor a b sz, 13, w, raw)] : List (Instr × BitVec 4 × Nat × Word)),
      (va.toNat % p.2.2.1 ≠ 0 → exec p.1 s = .next (raiseFault s ⟨0x04, va, 0, 0, 0, none⟩)) ∧
      (∀ (t : State) (h : Hit), va.toNat % p.2.2.1 = 0 → access (afterReads s ops) va 0 needW = .ok (t, h) →
        ((∀ pa, h.tgt ≠ .device pa) ∨ leafCL h.leaf = 2 →
          exec p.1 s = .next (raiseFault (walked va.toNat 0 needW s) ⟨0x06, BitVec.ofNat 64 va.toNat, 0, 0, 0, none⟩)) ∧
        (∀ (pa : Nat), h.tgt = .device pa → leafCL h.leaf ≠ 2 → coreWtOver t (curCore s) pa p.2.2.1 = false →
          let core := curCore s
          let line := lineOf pa
          let key := partialKey core line
          let combined (u : State) (q : Partial) : Host.Outcome State Fault Refusal := .next (retire { u with
            partials := tabPut u.partials key (partialApply q (pa % 128) p.2.2.1 p.2.2.2) })
          (∀ q, localPartial t core line p.2.1 = some q →
            exec p.1 s = combined (touchLine (dropAhead t pa p.2.2.1) core line) q) ∧
          (∀ u, localPartial t core line p.2.1 = none → homeHolds t (curAsker s) (curPart s) core line true = none →
            facetGrant (deliverNotice t core line) core line p.2.1 (some s.cur.slot) = .granted u →
            exec p.1 s = combined (allocLine (dropAhead u pa p.2.2.1) core line h.ep false)
              (tabD u.partials key (newPartial p.2.1)))))

/-- A prefetch never faults and leaves memory and registers alone but for what its address checks do; `cwb` gives up the
core's copy of its line, the bytes of a DISJ copy once its home makes a write wait for nothing, so that later reads find it at
home; a fence is noted, one with an empty set does nothing, and while
an operation before it that it orders is pending no access that it orders may issue (R185, R186, R206). One with T or I in
its successor set also orders the stores of its core that the sequencer's last acquire may have seen (R228); that it takes
the whole core's is the model's reading (log entry 7). -/
def Obligations.HintsAndFences : Prop :=
  (∀ (s : State) (a b : Spec) (off : BitVec 24),
    let ops := [opA .ssrc a, opB .ssrc b]
    let ea : Word := operandValue s ops 0 + operandValue s ops 1 + off.signExtend 64
    operandsReady s ops = true →
    (∀ i ∈ ([.pf a b off, .pfL2 a b off, .pfPool a b off] : List Instr),
      (∀ f g, access (afterReads s ops) ea 0 needR = .error (.walkFault f g) →
        exec i s = .next (retire (g (afterReads s ops)))) ∧
      (∀ g, access (afterReads s ops) ea 0 needR = .error (.wait g) → exec i s = .next (leaveBound (g (plainWait s)))) ∧
      (∀ (t : State) (h : Hit), access (afterReads s ops) ea 0 needR = .ok (t, h) → ∃ u, exec i s = .next (retire u) ∧
        u = { t with copies := u.copies, dir := u.dir, sets := u.sets, notices := u.notices, hostdir := u.hostdir,
                     free := u.free, chan := u.chan, asks := u.asks, ids := u.ids, links := u.links, out := u.out })) ∧
    (∀ (t : State) (h : Hit), okRes (mayAccess s .s) = true → access (afterReads s ops) ea 0 needR = .ok (t, h) →
      seqWtOver s (curKey s) s.cur.side (128 * lineOf (targetPa h.tgt)) 128 = false →
      (∀ pa, h.tgt = .device pa → cutOff s (curCore s) h.tgt = false ∧ ((dirAt s (lineOf pa)).st = .gathering →
        homeHolds s (curAsker s) (curPart s) (curCore s) (lineOf pa) true = none)) →
      exec (.cwb a b off) s = .next (retire (match h.tgt with
        | .device pa => releaseLine t (curCore s) (lineOf pa)
        | .host pa => dropHostHolder t (lineOf pa) (curCore s)
        | _ => t)) ∧
      ∀ pa, h.tgt = .device pa →
        let line := lineOf pa
        let u := releaseLine t (curCore s) line
        if isFaceted (dirAt t line) then tabGet u.partials (partialKey (curCore s) line) = none
        else curCore s ∉ copiesOf u line)) ∧
  (∀ (s : State) (p q : BitVec 5) (scope : BitVec 3),
    (p = 0 ∨ q = 0 → exec (.fence p q scope) s = .next (retire s)) ∧
    (p ≠ 0 → q ≠ 0 → ∃ u, exec (.fence p q scope) s = .next (retire u) ∧
      ⟨p, q, scope, s.ids⟩ ∈ (curSeq u).fences ∧
      (q &&& 0x18 ≠ 0 → ⟨3, q &&& 0x18, scope, (curSeq s).acq⟩ ∈ (curSeq u).fences) ∧ u = { s with ctxs := u.ctxs, asks := u.asks, answers := u.answers } ∧
      (∀ f ∈ (curSeq s).fences, f ∈ (curSeq u).fences ∨
        pending (fenceDiscards s q) (curKey s) s.cur.side (curCore s) f.p (atHomes f.scope) f.cut = false))) ∧
  (∀ (s : State) (f : FenceRec), f ∈ (curSeq s).fences →
    (∀ c ∈ [AClass.s, .v], f.q.getLsbD (classBit c) = true →
      pending s (curKey s) s.cur.side (curCore s) f.p f.scope f.cut = true → okRes (mayAccess s c) = false) ∧
    (∀ c ∈ [AClass.e, .t, .i], f.q.getLsbD (classBit c) = true →
      pending s (curKey s) s.cur.side (curCore s) f.p (atHomes f.scope) f.cut = true → okRes (mayAccess s c) = false))

/-- The vector loads, gathers and first-fault loads write the elements read at the addresses of their form: unit-stride,
strided, gathered, in a v register on X or as a new entry of a w queue on A; one whose active element faults writes nothing,
but a first-fault load, whose first active element is read, stops short of it and shortens its length (R177, R187 to R192,
R194). That one with no active element does not fault at a base off its alignment is the model's choice (log entry 78). -/
def Obligations.VectorLoads : Prop :=
  ∀ (s : State) (t : BitVec 4) (k : Bool) (sc : BitVec 2) (d a b : Spec) (off : BitVec 24) (i : VIn),
    let ty := tyOfCode t
    let w := elemBytes ty
    let x := valAt i.vals 1
    let y := valAt i.vals 2
    let m := vecCount s i.c [ty]
    let act : List Bool := match s.cur.side with | .x => activeList i.c k m | .a => List.replicate m true
    let read (u v : State) (l : List ElAcc) (r : List (Nat × List Byte)) (ad : List (Nat × Word)) : Prop :=
      checkElems w needR i.s ad = .ok (u, l) ∧ loadElems w u l = .ok (v, r)
    (vecStart s [opD .vldst d, opA .ssrc a, opB .ssrc b] (.ok ()) (.ok ()) true [] = .ok i → m = 0 →
      exec (.vld t d a b off) s = .next (retire (writeLoad i.s i.c d ty []))) ∧
    (vecStart s [opD .vldst d, opA .ssrc a, opB .ssrc b] (.ok ()) (.ok ()) true [] = .ok i → okRes (mayAccess s .v) = true →
      let ea : Word := x + y * BitVec.ofNat 64 w + off.signExtend 64
      (m ≠ 0 → ea.toNat % w ≠ 0 → exec (.vld t d a b off) s = .next (raiseFault s ⟨0x04, ea, 0, 0, 0, none⟩)) ∧
      (∀ u v l r, m ≠ 0 → ea.toNat % w = 0 → read u v l r (unitAddrs ty ea m) →
        let vals := if ty = .f4e2m1 then unpackNibbles (elemVals r) else elemVals r
        exec (.vld t d a b off) s =
          .next (retire (curPm (writeLoad (dropAnswers v) i.c d ty (loadedVals m vals)) 8 m))) ∧
      (memType ty = true → (k = true → s.cur.side = .x) →
        (∀ u v l r, read u v l r (activeAddrs act (fun j => x + BitVec.ofNat 64 j * y)) →
          exec (.vlds t k d a b) s =
            .next (retire (curPm (writeLoad (dropAnswers v) i.c d ty (loadedVals m (elemVals r))) 8 l.length))) ∧
        (∀ f, checkElems w needR i.s (activeAddrs act (fun j => x + BitVec.ofNat 64 j * y)) = .error (.fault f) →
          exec (.vlds t k d a b) s = .next (raiseFault s f)) ∧
        (∀ f g, checkElems w needR i.s (activeAddrs act (fun j => x + BitVec.ofNat 64 j * y)) = .error (.walkFault f g) →
          exec (.vlds t k d a b) s = .next (raiseFault (g s) f)) ∧
        (∀ u r j, (activeAddrs act (fun j => x + y + BitVec.ofNat 64 (j * w))).isEmpty = true ∨ (x + y).toNat % w = 0 →
          firstFault w i.s (activeAddrs act (fun j => x + y + BitVec.ofNat 64 (j * w))) true = .ok (u, r, j) →
          let v := curPm (writeLoad (dropAnswers u) i.c d ty (loadedVals m (elemVals r))) 8 r.length
          exec (.vldff t k d a b) s = .next (retire (match j with | some j => shorten v j | none => v))))) ∧
    (vecStart s [opD .vreg d, opA .ssrc a, opB .vreg b] (.ok ()) (.ok ()) true [] = .ok i → okRes (mayAccess s .v) = true →
      memType ty = true →
      let q := vregOf i.c b
      q.tag = .i32 ∨ q.tag = .n32 ∨ q.tag = .i64 →
      let n := vlEff i.c [ty, q.tag]
      let ad := activeAddrs (activeList i.c k n) (fun j =>
        x + BitVec.ofInt 64 (intOf q.tag (valAt (elemsOf q.tag n q.data) j) * 2 ^ sc.toNat))
      (∀ u v l r, read u v l r ad →
        exec (.vgth t sc k d a b) s =
          .next (retire (curPm (writeLoad (dropAnswers v) i.c d ty (loadedVals n (elemVals r))) 8 l.length)) ∧
        ((∀ e ∈ ad, elemFault i.s w needR e = none ∧ elemWait i.s w needR e = none) →
          exec (.vgthProbe t sc k d a b) s = exec (.vgth t sc k d a b) s)) ∧
      (∀ f rest, (∀ e ∈ ad, elemWait i.s w needR e = none) → ad.filterMap (elemFault i.s w needR) = f :: rest →
        let units := distinctUnits (((f :: rest).filter (fun g => g.code = 0x05)).map probeUnit)
        let left := ad.foldl (fun t e => walked e.2.toNat e.1 needR t) s
        exec (.vgthProbe t sc k d a b) s = .next (raiseFault left (if f.code = 0x05 then
          { f with probe := some (units.take 16, decide (16 < units.length)) } else f))))

/-- The vector stores, scatters and fetch-add-scan store the elements of their register at the addresses of their form; a
register whose tag is not the instruction's type faults TAG_MISMATCH (R187 to R189, R191, R193, R195). -/
def Obligations.VectorStores : Prop :=
  ∀ (s : State) (t : BitVec 4) (k : Bool) (sc : BitVec 2) (d a b : Spec) (off : BitVec 24) (i : VIn),
    let ty := tyOfCode t
    let w := elemBytes ty
    let x := valAt i.vals 1
    let y := valAt i.vals 2
    let n := vlEff i.c [ty]
    let el : List Word := elemsOf ty n (vregOf i.c d).data
    let wrong (pos : BitVec 16) : Host.Outcome State Fault Refusal := .next (raiseFault s ⟨0x03, 0, s.cur.word, pos, 0, none⟩)
    ((curCtx s).slices ≠ 0 → okRes (vectorReady s) = true → (k = true → s.cur.side = .x) →
      (operandsReady s [opD .vreg d, opA .ssrc a, opB .ssrc b] = true → (vregOf (curCtx s) d).tag ≠ ty →
        exec (.vst t d a b off) s = wrong 1 ∧ (memType ty = true → exec (.vsts t k d a b) s = wrong 1)) ∧
      (operandsReady s [opD .vreg d, opA .ssrc a, opB .vreg b] = true →
        (memType ty = true → (vregOf (curCtx s) d).tag ≠ ty → exec (.vsct t sc k d a b) s = wrong 1) ∧
        (ty = .i32 ∨ ty = .n32 ∨ ty = .i64 → (vregOf (curCtx s) b).tag ≠ ty → exec (.vfas t k d a b) s = wrong 3))) ∧
    (vecStart s [opD .vreg d, opA .ssrc a, opB .ssrc b] (.ok ()) (dTag s d ty) true [] = .ok i → n = 0 →
      exec (.vst t d a b off) s = .next (retire i.s)) ∧
    (okRes (mayAccess s .v) = true →
    (vecStart s [opD .vreg d, opA .ssrc a, opB .ssrc b] (.ok ()) (dTag s d ty) true [] = .ok i →
      let ea : Word := x + y * BitVec.ofNat 64 w + off.signExtend 64
      (n ≠ 0 → ea.toNat % w ≠ 0 → exec (.vst t d a b off) s = .next (raiseFault s ⟨0x04, ea, 0, 0, 0, none⟩)) ∧
      (∀ u l, n ≠ 0 → ea.toNat % w = 0 → ty ≠ .f4e2m1 → checkElems w needW i.s (unitAddrs ty ea n) = .ok (u, l) →
        exec (.vst t d a b off) s = .next (retire (curPm (dropAnswers (storeRuns u (coalesce
          (List.zipWith (fun e v => (e.hit, leBytes w v.toNat)) l el)))) 8 n))) ∧
      (∀ u l, n ≠ 0 → ty = .f4e2m1 → n % 2 = 0 → checkElems 1 needW i.s (unitAddrs ty ea n) = .ok (u, l) →
        exec (.vst t d a b off) s = .next (retire (curPm (dropAnswers (storeRuns u (coalesce
          (List.zipWith (fun e v => (e.hit, [v])) l (packNibbles el))))) 8 n))) ∧
      (∀ u l v e, ty = .f4e2m1 → n % 2 = 1 → checkElems 1 needW i.s (unitAddrs ty ea n) = .ok (u, l) →
        l.getLast? = some e → storeNibble (storeRuns u (coalesce
          (List.zipWith (fun e v => (e.hit, [v])) l.dropLast (packNibbles el)))) e (el.getLastD 0) = .ok v →
        exec (.vst t d a b off) s = .next (retire (curPm (dropAnswers v) 8 n))) ∧
      (∀ u l, memType ty = true → (k = true → s.cur.side = .x) →
        checkElems w needW i.s (activeAddrs (activeList i.c k n) (fun j => x + BitVec.ofNat 64 j * y)) = .ok (u, l) →
        exec (.vsts t k d a b) s = .next (retire (curPm (storeElems u ty l el) 8 l.length)))) ∧
    (vecStart s [opD .vreg d, opA .ssrc a, opB .vreg b] (.ok ()) (dTag s d ty) true [] = .ok i → memType ty = true →
      let q := vregOf i.c b
      q.tag = .i32 ∨ q.tag = .n32 ∨ q.tag = .i64 →
      let m := vlEff i.c [ty, q.tag]
      ∀ u l, checkElems w needW i.s (activeAddrs (activeList i.c k m) (fun j =>
          x + BitVec.ofInt 64 (intOf q.tag (valAt (elemsOf q.tag m q.data) j) * 2 ^ sc.toNat))) = .ok (u, l) →
        exec (.vsct t sc k d a b) s =
          .next (retire (curPm (storeElems u ty l (elemsOf ty m (vregOf i.c d).data)) 8 l.length))) ∧
    (vecStart s [opD .vreg d, opA .ssrc a, opB .vreg b] (.ok ()) (.ok ()) true [] = .ok i →
      ty = .i32 ∨ ty = .n32 ∨ ty = .i64 → (vregOf i.c b).tag = ty →
      let act := activeList i.c k n
      let leaves : List (Option Word) := List.zipWith (fun g v => if g then some v else none) act
        (elemsOf ty n (vregOf i.c b).data)
      let add : Word → Word → Word := fun r v => elemMask ty (r + v)
      let sum := (prefixes add 0 leaves).2
      (x.toNat % w ≠ 0 → exec (.vfas t k d a b) s = .next (raiseFault s ⟨0x04, x, 0, 0, 0, none⟩)) ∧
      (∀ u h v old, x.toNat % w = 0 → access i.s x 0 needRW = .ok (u, h) → act.any id = true →
        rmw u h x w .add sum 0 (fun o => some (add o sum)) = .ok (v, old) →
        exec (.vfas t k d a b) s = .next (retire (curPm (writeVreg (dropAnswers v) d
          ⟨ty, putElems ty (vregOf i.c d).data (prefixes add (elemMask ty old) leaves).1⟩) 8 (act.countP id)))) ∧
      (∀ u h v r, x.toNat % w = 0 → access i.s x 0 needRW = .ok (u, h) → act.any id = false →
        loadBytes u h x 0 w true = .ok (v, r) →
        exec (.vfas t k d a b) s = .next (retire (curPm (writeVreg (dropAnswers v) d
          ⟨ty, putElems ty (vregOf i.c d).data (leaves.map (fun _ => none))⟩) 8 0)))))

/-! ## Matrix engine, tiles, handles (R207 to R216, R305 to R320) -/

/-- A matrix instruction whose tiles and types are right takes the engine, where that is free and not the other hart's turn,
and goes on: the accumulator holds the product or the tile read, the tile the accumulator stored or the planes; the memory
effect comes at the issue (the model's choice, log entry 33). When the instruction completes the engine is free, its saturations
are counted (R82) and a tile written is ready (R207 to R215, R309). `mzero` clears at once. Where a sparse MX source holds its
scale bytes is log entry 103. -/
def Obligations.Matrix : Prop :=
  (∀ (s : State) (at_ bt ct : BitVec 4) (mxa mxb sp : Bool) (spn : BitVec 2) (d a b : Spec) (A B : Tile),
    let ops := [opD .acc d, opA .tile a, opB .tile b]
    let ta := tyOfCode at_
    let tb := tyOfCode bt
    let tc := tyOfCode ct
    operandsReady s ops = true → mmTypes s ta tb tc mxa mxb = true →
    needTile (curCtx s) a = .ok A → needTile (curCtx s) b = .ok B →
    (accAt (curCtx s) (accNo d)).tag = tc → A.ty = ta → B.ty = tb →
    A.rows = 32 → A.rlen % 32 = 0 → 32 ≤ A.rlen → A.rlen ≤ 1024 → A.pf = false → A.mx = mxa → tileInside A = true →
    B.pf = true → B.rlen = A.rlen → B.mx = mxb → tileInside B = true → okRes (mayAccess s .v) = true →
    A.st = .ready → B.st = .ready → tilePoison s A = none → tilePoison s B = none → okRes (needEngine s) = true →
    let g := A.rlen / 32
    let p := (planeCounts tb).1
    let r := matProduct s (curCore s) (accAt (curCtx s) (accNo d)) A B tc mxa
    let u := modCur (afterReads s ops) (fun c => setAcc c (accNo d) r.1)
    (B.sn = 0 → exec (.mm at_ bt ct mxa mxb d a b) s = .next (beginMatrix u .mm (p * g) r.2)) ∧
    (B.sn = spn + 1 → spn ≠ 3 → sp = true →
      exec (.mms at_ bt ct mxa mxb sp spn d a b) s = .next (beginMatrix u .mm (p * ((g + 1) / 2)) r.2))) ∧
  (∀ (s : State) (t : BitVec 4) (d a : Spec) (T : Tile), okRes (needEngine s) = true →
    (let ops := [opD .acc d]
     operandsReady s ops = true → tyOfCode t = .i32 ∨ tyOfCode t = .f32 →
     exec (.mzero t d) s =
       .next (retire (curPm (modCur (afterReads s ops) (fun c => setAcc c (accNo d) ⟨tyOfCode t, []⟩)) 9 32))) ∧
    (T.rows = 32 → T.rlen = 32 → T.pf = false → tileInside T = true → okRes (mayAccess s .v) = true →
      (let ops := [opD .acc d, opA .tile a]
       operandsReady s ops = true → needTile (curCtx s) a = .ok T → T.ty = .i32 ∨ T.ty = .f32 → T.st = .ready →
       tilePoison s T = none →
       let els := (List.range 1024).map (fun j => BitVec.ofNat 32 (leNat (memRead s.mem (tilePa (curCore s) T + 4 * j) 4)))
       exec (.mld d a) s =
         .next (beginMatrix (modCur (afterReads s ops) (fun c => setAcc c (accNo d) (accOf T.ty els))) .mld 32 0)) ∧
      (let ops := [opD .tile d, opA .acc a]
       operandsReady s ops = true → needTile (curCtx s) d = .ok T → tyNumeric T.ty = true →
       (accAt (curCtx s) (accNo a)).tag ≠ .none → T.st = .empty →
       let r := storedAcc (accAt (curCtx s) (accNo a)) T.ty
       exec (.mst d a) s = .next (beginMatrix (tilePut (fillTile (afterReads s ops) (curKey s) (tileNo d)) T r.1)
         (.mst (tileNo d) T) 32 r.2)))) ∧
  (∀ (t : ETy) (l : List (BitVec 32)) (j : Nat), accEl (accOf t l) j = l.getD j 0) ∧
  (∀ (s : State) (t : BitVec 4) (mx sp : Bool) (spn : BitVec 2) (d a b : Spec) (D S M : Tile),
    let ops := [opD .tile d, opA .tile a] ++ if sp then [opB .tile b] else []
    let ty := tyOfCode t
    let N := if sp then 4 * 2 ^ spn.toNat else 32
    let g := S.rlen / N
    let core := curCore s
    let scales := tilePa core S + 32 * tileRowBytes S
    let masks := if sp then maskRows s core M g else []
    operandsReady s ops = true → bType ty = true → (mx = true → mxType ty = true) → (sp = true → spn ≠ 3) →
    ¬(s.svc = 1 ∧ (ty = .bf16 ∨ ty = .i8)) →
    needTile (curCtx s) d = .ok D → needTile (curCtx s) a = .ok S → S.ty = ty → S.rows = 32 → S.pf = false → S.mx = mx →
    tileInside S = true → (mx = true → scalesInside S g = true ∧ poisonIn s scales (32 * g) = none) →
    S.rlen % N = 0 → 1 ≤ g → g ≤ 32 → tileInside D = true → g * blockBytes ty (snOf sp spn) mx ≤ tileSize D →
    (sp = true → needTile (curCtx s) b = .ok M ∧ M.ty = .n32 ∧ M.rows = 32 ∧ M.pf = false ∧ M.mx = false ∧ M.rlen = g ∧
      tileInside M = true ∧ M.st = .ready ∧ tilePoison s M = none ∧ ∀ r ∈ maskRows s core M g, ∀ m ∈ r, bitCount32 m = N) →
    okRes (mayAccess s .v) = true → S.st = .ready → D.st = .empty → tilePoison s S = none → okRes (needEngine s) = true →
    exec (.tpln t mx sp spn d a b) s = .next (beginMatrix
      (tilePut (fillTile (afterReads s ops) (curKey s) (tileNo d)) D (tplnBytes s core S ty mx (snOf sp spn) masks g))
      (.tpln (tileNo d) { D with st := .ready, ab := false, nr := 32, ty := ty, rows := 32, rlen := 32 * g, pf := true,
                                 mx := mx, sn := snOf sp spn })
      ((if sp then 1 else 2) * g * planesPerBlock ty) 0)) ∧
  (∀ (s : State) (core : Nat) (op : MxOp),
    (tabGet s.mx core = none → exec (.matrixInstructionComplete core) s = .next s) ∧
    (tabGet s.mx core = some op → ∃ t, exec (.matrixInstructionComplete core) s = .next t ∧ tabGet t.mx core = none ∧
      (op.kind = .mm ∨ op.kind = .mld →
        t = addSat { s with mx := tabDel s.mx core } op.slot (ctxAt s op.ctx).part 1 op.sats) ∧
      (∀ n T, op.kind = .mst n T → n < 32 → (tileOf (ctxAt t op.ctx) n).st = .ready ∧ (tileOf (ctxAt t op.ctx) n).nr = 32) ∧
      (∀ n T, op.kind = .tpln n T → n < 32 → tileOf (ctxAt t op.ctx) n = T)))

/-- Tiles are defined from a descriptor, freed, waited for and their lengths taken over; an instruction that names an
undefined tile faults TILE_UNDEFINED, but for `tstat` (R310 to R316). `tfree` waits while a command of its hart may still read
the tile's bytes (R313). What `twait` discards as an acquire is the model's choice
(log entry 89). -/
def Obligations.Tiles : Prop :=
  (∀ (s : State) (mx : Bool) (d a : Spec),
    let ops := [opD .tile d, opA .ssrc a]
    let va := operandValue s ops 1
    operandsReady s ops = true → okRes (mayAccess s .s) = true →
    (va.toNat % 16 ≠ 0 → exec (.tdef mx d a) s = .next (raiseFault s ⟨0x04, va, 0, 0, 0, none⟩)) ∧
    (∀ t l, va.toNat % 16 = 0 → loadRange 2 (afterReads s ops) va 16 = .ok (t, l) →
      let old := tileOf (curCtx s) (tileNo d)
      (old.defined = true → old.st ≠ .empty →
        exec (.tdef mx d a) s = .next (raiseFault (leftBy (fun r => loadRange 2 r va 16) s)
          ⟨0x02, 0, s.cur.word, 1, 0, none⟩)) ∧
      ((old.defined = true → old.st = .empty) → tileDescOk (leNat l) mx = true →
        exec (.tdef mx d a) s =
          .next (retire (modTile (dropAnswers t) (curKey s) (tileNo d) (fun _ => tileOfDesc (leNat l) mx)))))) ∧
  (∀ (s : State) (u : Bool) (n : BitVec 5) (d b : Spec) (T : Tile),
    let c := curCtx s
    let undef : Host.Outcome State Fault Refusal := .next (raiseFault s ⟨0x09, 0, 0, BitVec.ofNat 16 n.toNat, 0, none⟩)
    let free := [opD .tile (.t n)]
    let read := [opD .sdst d, opA .tile (.t n)]
    let set := [opD .sdst d, opA .tile (.t n), opB .ssrc b]
    ((tileOf c n.toNat).defined = false →
      (operandsReady s free = true → exec (.tfree u (.t n)) s = undef) ∧
      (operandsReady s read = true → exec (.twaitR d (.t n)) s = undef ∧ exec (.twaitE d (.t n)) s = undef ∧
        exec (.tsetl d (.t n)) s = undef) ∧
      (operandsReady s set = true → exec (.tsetlC d (.t n) b) s = undef)) ∧
    (tileOf c n.toNat = T → T.defined = true →
      (operandsReady s free = true → T.st = .empty ∨ T.st = .ready → tileStillRead s T = false →
        exec (.tfree u (.t n)) s = .next (retire (modTile (afterReads s free) (curKey s) n.toNat (fun e =>
          if u then Tile.undefined else { e with st := .empty, ab := false, nr := 0 })))) ∧
      (operandsReady s read = true →
        (T.st = .ready → exec (.twaitR d (.t n)) s =
          .next (retire (writeDst (tileAcquired (afterReads s read)) d (BitVec.ofNat 64 T.nr)))) ∧
        (T.st = .empty → T.ab = true → exec (.twaitR d (.t n)) s =
          .next (retire (writeDst (tileAcquired (afterReads s read)) d (BitVec.allOnes 64)))) ∧
        (T.st = .empty → exec (.twaitE d (.t n)) s =
          .next (retire (writeDst (tileAcquired (afterReads s read)) d (if T.ab then 1 else 0)))) ∧
        exec (.tsetl d (.t n)) s = .next (retire (setLengths (afterReads s read) d T.rlen T.nr))) ∧
      (operandsReady s set = true → T.st = .empty → pending s (curKey s) s.cur.side (curCore s) 3 3 s.ids = false →
        let nr := min (operandValue s set 2).toNat T.rows
        exec (.tsetlC d (.t n) b) s =
          .next (retire (setLengths (tileReady (afterReads s set) (curKey s) n.toNat nr) d T.rlen nr)))))

/-- R315: `tstat` answers bits [63:0] of the entry without waiting, and 0 for an undefined tile, which is no fault. -/
def Obligations.TileStatus : Prop :=
  ∀ (s : State) (d : Spec) (n : BitVec 5),
    let ops := [opD .sdst d, opA .tile (.t n)]
    let T := tileOf (curCtx s) n.toNat
    operandsReady s ops = true →
    exec (.tstat d (.t n)) s = .next (retire (writeDst (afterReads s ops) d
      (if T.defined then BitVec.ofNat 64 (tileBits T) else 0)))

/-- `tlbi` drops the partition's translations that cover its address, or all, within its scope, and retires once no access of
the partition there is on its way, with its loads performed; while one is, its caches keep what they hold. `hset` fills a handle
slot with a new generation and answers the handle, `hinv` makes a current handle stale and waits for its pins (R305, R317, R319,
R320). -/
def Obligations.HandlesAndTranslations : Prop :=
  (∀ (s : State) (a : Spec) (scope : BitVec 3), scope = 3 ∨ scope = 4 ∨ scope = 5 →
    pending s (curKey s) s.cur.side (curCore s) 1 scope s.ids = false → scopeCut s (curPart s) (curCore s) scope = false →
    let p := curPart s
    let core := curCore s
    let kept := (onWayBy s p core scope).flatMap (cachesOf s)
    let drop (t : State) (va : Option Nat) (keep : List Nat) : State := dropTranslations t p core scope va keep
    let waits (t : State) : Host.Outcome State Fault Refusal := .next (modSeq t (fun q => { q with why := .none }))
    (operandsReady s [] = true →
      (scopeBusy s p core scope = false →
        exec (.tlbiAll scope) s = .next (retire (settleLoads (drop (afterReads s []) none []) p core scope))) ∧
      (scopeBusy s p core scope = true → exec (.tlbiAll scope) s = waits (drop s none kept))) ∧
    (let ops := [opA .ssrc a]
     let va := some (operandValue s ops 0).toNat
     operandsReady s ops = true →
      (scopeBusy s p core scope = false →
        exec (.tlbiVa a scope) s = .next (retire (settleLoads (drop (afterReads s ops) va []) p core scope))) ∧
      (scopeBusy s p core scope = true → exec (.tlbiVa a scope) s = waits (drop s va kept)))) ∧
  (∀ (s : State) (part core n : Nat) (scope : BitVec 3) (va : Nat) (keep : List Nat),
    coresShare scope core (coreOfTlb n) = true → n ∉ keep →
    (∀ e ∈ tlbOf (dropTranslations s part core scope none keep) n, e.part ≠ part) ∧
    (∀ e ∈ tlbOf (dropTranslations s part core scope (some va) keep) n,
      ¬(e.part = part ∧ va / 2 ^ e.size = e.va / 2 ^ e.size))) ∧
  (∀ (s : State) (d a b : Spec),
    let ops := [opD .sdst d, opA .ssrc a, opB .ssrc b]
    let va := operandValue s ops 1
    let n := (operandValue s ops 2).toNat
    let e := handleAt s (curPart s) n
    ∀ t l, operandsReady s ops = true → okRes (mayAccess s .s) = true → va.toNat % 16 = 0 →
      loadRange 2 (afterReads s ops) va 16 = .ok (t, l) →
      let h := leNat l
      let first := bitsOf h 16 16
      let nrow := bitsOf h 32 16
      let r := bankRegion (partAt s (curPart s)) (bitsOf h 0 3)
      n < 256 → e.valid = false → bitsOf h 5 11 = 0 → bitsOf h 48 80 = 0 → nrow ≠ 0 → r.2 ≠ 0 → first + nrow ≤ r.2 - r.1 →
      let g : BitVec 32 := if e.gen = 0xFFFFFFFF then 1 else e.gen + 1
      exec (.hset d a b) s = .next (retire (writeDst (setHandle (dropAnswers t) (curPart s) n
        ⟨true, bitsOf h 3 1 = 1, bitsOf h 4 1 = 1, bitsOf h 0 3, g, r.1 + first, nrow, e.pin⟩) d
        (BitVec.ofNat 64 (n + g.toNat * 2 ^ 16))))) ∧
  (∀ (s : State) (a : Spec),
    let ops := [opA .ssrc a]
    let h := operandValue s ops 0
    let n := h.toNat % 256
    let e := handleAt s (curPart s) n
    let t := setHandle (afterReads s ops) (curPart s) n
      { e with valid := false, gen := if e.gen = 0xFFFFFFFF then 1 else e.gen + 1 }
    operandsReady s ops = true → (∀ m, (curSeq s).status ≠ .pinWait m) →
    (currentHandle s (curPart s) h = false → exec (.hinv a) s = .next (raiseFault s ⟨0x08, h, 0, 0, 0, none⟩)) ∧
    (currentHandle s (curPart s) h = true →
      (e.pin = 0 → exec (.hinv a) s = .next (retire t)) ∧
      (e.pin ≠ 0 → exec (.hinv a) s = .next (modSeq t (fun q => { q with status := .pinWait n, atBound := false, why := .none }))))) ∧
  (∀ (s : State) (slot : Nat) (sd : Side) (key n : Nat), (slotAt s slot).ctx = some key →
    (seqOf (ctxAt s key) sd).status = .pinWait n → (handleAt s (ctxAt s key).part n).pin = 0 →
    (partAt s (ctxAt s key).part).line = false →
    exec (.hinvPinRelease slot sd) s = .next (retire (atSlot s slot sd)))

/-! ## Engine, collective, KV and bank commands (R196 to R205, R281 to R299, R321 to R332) -/

/-- A command of the copy engines or of the collective engine whose checks hold enters its queue with its operands, the owner
of its destination's lines, pins its handle, fills or drains its tile, and the sequencer goes on (R196 to R203, R328 to
R330). That a handle copy of no bytes is not checked against its region, which lines it owns from its issue, and which odd
f4e2m1 rows are allowed are the model's choices (log entries 81, 84, 79). -/
def Obligations.EngineIssue : Prop :=
  (∀ (s : State) (hd hs : Bool) (dt st : BitVec 4) (scope : BitVec 3) (d a b cc : Spec) (T : Tile),
    let dty := tyOfCode dt
    let sty := tyOfCode st
    let hand (h : Handle) (o : Word) : Loc := .hand h.stk h.lo h.nrow o
    okRes (engineReady s false) = true → dt ≠ 15 → st ≠ 15 → dt ≠ 14 → st ≠ 14 → (dt = 0 ↔ st = 0) →
    (let ops := [opD .tileOrSrc d, opA .ssrc a, opB .ssrc b] ++ if hd || hs then [opC .ssrc cc] else []
     let x := operandValue s ops
     let n := (x 2).toNat
     let h (i : Nat) : Handle := handleAt s (curPart s) (handleSlot (x i))
     let fits (i : Nat) (ty : ETy) : Prop := currentHandle s (curPart s) (x i) = true ∧
       (spanOf ty n = 0 ∨ (x 3).toNat + spanOf ty n ≤ (h i).nrow * regionRow)
     let src : Loc := if hs then hand (h 1) (x 3) else .va (x 1)
     let pin := if hs then some (handleSlot (x 1)) else none
     let dst (l : Loc) : List Rng := [⟨l, 0, spanOf dty n, needW⟩]
     operandsReady s ops = true → (hs = true → fits 1 sty ∧ (h 1).hr = true) →
     (isTile d = false → hd = false → exec (.cpy hd hs dt st scope d a b cc) s =
       .next (retire (issueCmd (afterReads s ops) (.cpy (.va (x 0)) src (x 2) dty sty) scope pin (dst (.va (x 0)))))) ∧
     (isTile d = false → hd = true → hs = false → fits 0 dty → (h 0).hw = true →
       exec (.cpy hd hs dt st scope d a b cc) s = .next (retire (issueCmd (afterReads s ops)
         (.cpy (hand (h 0) (x 3)) src (x 2) dty sty) scope (some (handleSlot (x 0))) (dst (hand (h 0) (x 3)))))) ∧
     (isTile d = true → hd = false → needTile (curCtx s) d = .ok T → spanOf dty n = tileSize T → T.st = .empty →
       exec (.cpy hd hs dt st scope d a b cc) s = .next (retire (issueCmd
         (fillTile (afterReads s ops) (curKey s) (tileNo d)) (.cpy (.tile (tileNo d) T.base) src (x 2) dty sty) scope
         pin (dst (.tile (tileNo d) T.base)))))) ∧
    (let ops := [opD .tileOrSrc d, opA .ssrc a, opB .ssrc b, opC .ssrc cc]
     let x := operandValue s ops
     let h : Handle := handleAt s (curPart s) (handleSlot (x 1))
     let src : Loc := if hs then hand h 0 else .va (x 1)
     let pin := if hs then some (handleSlot (x 1)) else none
     let rl := (curSeq s).rl
     let dst (l : Loc) : List Rng := [⟨l, 0, (x 3).toNat * spanOf dty rl.toNat, needW⟩]
     operandsReady s ops = true → (hs = true → currentHandle s (curPart s) (x 1) = true ∧ h.hr = true) →
     (isTile d = false → exec (.cpyg false hs dt st scope d a b cc) s = .next (retire (issueCmd (afterReads s ops)
       (.cpyg (.va (x 0)) src (x 2) (x 3) rl dty sty) scope pin (dst (.va (x 0)))))) ∧
     (isTile d = true → needTile (curCtx s) d = .ok T → (x 3).toNat ≤ T.rows → spanOf dty rl.toNat = tileRowBytes T →
       T.st = .empty → exec (.cpyg false hs dt st scope d a b cc) s = .next (retire (issueCmd
         (fillTile (afterReads s ops) (curKey s) (tileNo d))
         (.cpyg (.tile (tileNo d) T.base) src (x 2) (x 3) rl dty sty) scope pin (dst (.tile (tileNo d) T.base))))))) ∧
  (∀ (s : State) (mx : Bool) (dt : BitVec 4) (scope : BitVec 3) (d a b : Spec) (T : Tile),
    let ops := [opD .ssrc d, opA .tile a] ++ if mx then [opB .ssrc b] else []
    let ty := tyOfCode dt
    okRes (engineReady s false) = true → operandsReady s ops = true → dt ≠ 15 → dt ≠ 14 →
    needTile (curCtx s) a = .ok T → T.pf = false → T.ty = .f32 ∨ T.ty = .i32 →
    (mx = true → mxType ty = true ∧ T.ty = .f32 ∧ T.rlen % 32 = 0) → ¬(ty = .f4e2m1 ∧ T.rlen % 2 = 1) → T.st = .ready →
    exec (.drain mx false false dt scope d a b) s = .next (retire (issueCmd
      (modTile (afterReads s ops) (curKey s) (tileNo a) (fun t => { t with st := .draining }))
      (.drain (operandValue s ops 0) (tileNo a) T (operandValue s ops 2) mx ty) scope none
      (drainRanges (operandValue s ops 0) T (operandValue s ops 2) mx ty)))) ∧
  (∀ (s u v : State) (op dt t : BitVec 4) (scope : BitVec 3) (d a b cc : Spec) (hb eb : List Byte),
    let ops := [opD .ssrc d, opA .ssrc a, opB .ssrc b, opC .ssrc cc]
    let x := operandValue s ops
    let h := leNat hb
    let rtab : Word := BitVec.ofNat 64 (bitsOf h 128 64)
    let rank := bitsOf h 80 12
    let runs (i : Instr) (fn : BitVec 8) (o : BitVec 4) : Prop :=
      let k : CollCmd :=
        { fn := fn, op := o, dt := tyOfCode dt, t := tyOfCode t, d := x 0, a := x 1, count := (x 2).toNat,
          gtag := BitVec.ofNat 32 (bitsOf h 0 32), seq := BitVec.ofNat 32 (bitsOf h 32 32), n := bitsOf h 64 12,
          rank := rank, root := bitsOf h 96 12, rtab := rtab }
      okRes (collTypes s fn o dt t) = true →
        exec i s = .next (retire (issueCmd (dropAnswers v) k.kind scope none [collDest k]))
    okRes (engineReady s true) = true → operandsReady s ops = true → (x 3).toNat % 64 = 0 →
    loadRange 2 (afterReads s ops) (x 3) 64 = .ok (u, hb) → collDescOk h = true → rtab.toNat % 4 = 0 →
    loadRange 2 u (rtab + BitVec.ofNat 64 (4 * rank)) 4 = .ok (v, eb) → bitsOf (leNat eb) 13 19 = 0 →
    runs (.collAred op dt t scope d a b cc) 0 op ∧ runs (.collBcast dt t scope d a b cc) 1 0 ∧
    runs (.collAgth dt t scope d a b cc) 2 0 ∧ runs (.collRsct op dt t scope d a b cc) 3 op) ∧
  (∀ (s u v : State) (vv nr : Bool) (set : BitVec 4) (scope : BitVec 3) (d a b cc : Spec) (T : Tile) (ents : List KvEnt)
      (r : Bool × List Nat),
    let ops := [opD .sdst d, opA .tile a, opB .ssrc b, opC .ssrc cc]
    let bt := operandValue s ops 2
    let f := bitsOf (operandValue s ops 3).toNat 32 32
    let n := min T.rows (bitsOf (operandValue s ops 3).toNat 0 32 - f)
    let cnt := if n = 0 then 0 else (f + n - 1) / 64 + 1 - f / 64
    let end_ (w : State) (rot : Option (Bool × List Nat)) : State := retire (issueCmd
      (writeDst (dropAnswers (fillTile w (curKey s) (tileNo a))) d (BitVec.ofNat 64 n))
      (.kvgth (tileNo a) T vv f n ents rot) scope none [])
    okRes (engineReady s false) = true → okRes (mayAccess s .s) = true → operandsReady s ops = true →
    needTile (curCtx s) a = .ok T → T.pf = false → T.mx = false → T.rlen = 64 ∨ T.rlen = 128 ∨ T.rlen = 256 →
    T.rows ≤ 1024 → T.ty = .bf16 ∨ T.ty = .f8e4m3 ∨ T.ty = .f32 → T.st = .empty → bt.toNat % 8 = 0 →
    kvEntries bt T.rlen (afterReads s ops) ((List.range cnt).map (· + f / 64)) = .ok (u, ents) →
    (vv = true ∨ nr = true → exec (.kvgth vv nr set scope d a b cc) s = .next (end_ u none)) ∧
    (vv = false → nr = false → prismSet u set.toNat T.rlen T.ty = .ok (v, r) →
      exec (.kvgth vv nr set scope d a b cc) s = .next (end_ v (some r)))) ∧
  (∀ (s t u v w : State) (st : BitVec 4) (fmt dc : BitVec 2) (scope : BitVec 3) (a b cc : Spec),
    let ops := [opA .ssrc a, opB .ssrc b, opC .ssrc cc]
    let x := operandValue s ops
    let p := partAt s (curPart s)
    let ty := tyOfCode st
    let hd := 64 * 2 ^ dc.toNat
    let rows := 128 * hd * elemBytes (pageType fmt.toNat)
    let va := pageVa p.kvpool (x 1).toNat hd
    okRes (engineReady s false) = true → operandsReady s ops = true → ty = .bf16 ∨ ty = .f32 →
    fmt ≠ 3 → dc ≠ 3 → (x 1).toNat < p.kvpages.toNat → (x 0).toNat % elemBytes ty = 0 → (x 2).toNat % 8 = 0 →
    checkRange needR 3 (afterReads s ops) (x 0) (2 * hd * elemBytes ty) = .ok t → checkRange needR 2 t (x 2) 8 = .ok u →
    checkRange needRW 2 u va 16 = .ok v → checkRange needW (rows / 8192 + 2) v (va + 64) rows = .ok w →
    exec (.kvapp st fmt dc scope a b cc) s = .next (retire (issueCmd w
      (.kvapp ty fmt dc (x 0) (x 1) (x 2) p.kvpool p.kvpages) scope none [⟨.va va, 0, 16, needRW⟩])))

/-- A queued command performs its work in one turn (the model's choice, log entry 10): it completes, its saturations counted
and its tile ready or empty, as soon as its writes have performed (R82); while its page walk waits, the walk is in flight
(R341); a fault stops it and is recorded with E = 1, and stops with it every command of a collective whose members disagree; a
stopped command stays as it is (R196, R197, R205, R309, R360). That one of a partition whose halt line is up, with writes still
to be made, does nothing from that moment on is log entry 3: R353 leaves the moment open. A contribution of another package
joins those of its collective (R204). -/
def Obligations.EngineCompletion : Prop :=
  (∀ (s : State) (id : Nat) (c : Cmd), tabGet s.cmds id = some c →
    let i := c.issuer
    let p := partAt s i.part
    let works (t : State) : Prop := exec (.engineCommandComplete id) s = .next t
    let ends (t : State) (k : Cmd) : Prop :=
      (t.wts.any (fun e => e.2.cmd = some id) = false →
        works (dropCmd (cmdTileDone (addSat t i.slot i.part (cmdSatClass c.kind) k.sats) i c.kind) id k)) ∧
      (t.wts.any (fun e => e.2.cmd = some id) = true → works { t with cmds := tabPut t.cmds id { k with stage := 2 } })
    (c.faulted = true ∨ p.halted = true ∨ (p.line = true ∧ c.stage ≠ 2) → works s) ∧
    (c.faulted = false → p.halted = false →
      (c.stage = 2 → ends s c) ∧
      (p.line = false → c.stage ≠ 2 →
        let s0 := leaveQueues s (fun w => w = .cmd id)
        (∀ t n, cmdWork s0 id c = .done t n → ends (endWalk t (.cmd id)) { c with sats := n }) ∧
        (∀ t, cmdWork s0 id c = .next t → works (endWalk t (.cmd id))) ∧
        (∀ g, cmdWork s0 id c = .wait g → works (endWalk (g s0) (.cmd id))) ∧
        (∀ g, cmdWork s0 id c = .walk g → works (beginWalk (g s0) (.cmd id))) ∧
        (∀ f t, cmdWork s0 id c = .fault f t → works ((faultsWith t id c).foldl (fun u e =>
          cmdFaults u e.1 e.2 (if e.1 = id then f else { f with val := e.2.issuer.word })) (endWalk t (.cmd id))))))) ∧
  (∀ (s : State) (id : Nat) (c : Cmd), isColl c.kind = false ∨ c.stage ≠ 1 → faultsWith s id c = [(id, c)]) ∧
  (∀ (s : State) (id n : Nat) (c e : Cmd) (k l : CollCmd) (x y : CollPart),
    c.kind = k.kind → e.kind = l.kind → c.stage = 1 → (n, e) ∈ s.cmds → e.faulted = false →
    e.issuer.part = c.issuer.part → l.gtag = k.gtag → l.seq = k.seq → x ∈ s.collIn → y ∈ s.collIn →
    sameColl c.issuer.part k.gtag k.seq x = true → sameColl c.issuer.part k.gtag k.seq y = true → x.shape ≠ y.shape →
    (n, e) ∈ faultsWith s id c) ∧
  (∀ (s : State) (id : Nat) (c : Cmd) (f : FaultReq),
    tabGet (cmdFaults s id c f).cmds id = some { c with faulted := true } ∧
    (partAt (cmdFaults s id c f) c.issuer.part).line = true) ∧
  (∀ (s : State) (part : BitVec 4) (gtag seq : BitVec 32) (rank : Nat) (shape : CollShape) (bytes : List Byte),
    let p : CollPart := ⟨part.toNat, gtag, seq, rank, shape, bytes⟩
    (s.powered = true → (partAt s part.toNat).configured = true → ∃ t,
      exec (.coll part gtag seq rank shape bytes) s = .next t ∧ p ∈ t.collIn ∧ t = { s with collIn := t.collIn } ∧
      (∀ q ∈ s.collIn, ¬(q.part = p.part ∧ q.gtag = gtag ∧ q.seq = seq ∧ q.rank = rank ∧ q.shape = shape) →
        q ∈ t.collIn)) ∧
    (s.powered = false ∨ (partAt s part.toNat).configured = false →
      exec (.coll part gtag seq rank shape bytes) s = .next s))

/-- A bank command whose checks hold enters its die's queue and answers 0, or answers 1 and does nothing more at service
level 1 (R285); `cbld` enters at every level and answers nothing (R284, R297). -/
def Obligations.BankIssue : Prop :=
  (∀ (s u : State) (all : Bool) (scope : BitVec 3) (a cc : Spec) (hb : List Byte),
    let ops := [opA .ssrc a, opC .ssrc cc]
    let va := operandValue s ops 0
    let c := (operandValue s ops 1).toNat
    let h := leNat hb
    let w := bitsOf h 160 3
    let dies := if all then [0, 1, 2, 3] else [bitsOf c 8 2]
    let book : Codebook := ⟨BitVec.ofNat 128 (bitsOf h 0 128), BitVec.ofNat 32 (bitsOf h 128 32), BitVec.ofNat 3 w⟩
    operandsReady s ops = true → va.toNat % 32 = 0 → okRes (mayAccess s .s) = true → okRes (bankReady s dies) = true →
    loadRange 2 (afterReads s ops) va 32 = .ok (u, hb) → 1 ≤ w → w ≤ 4 →
    bitsOf h 163 93 = 0 → bitsOf c 6 2 = 0 → bitsOf c 10 54 = 0 → (all = true → bitsOf c 8 2 = 0) →
    exec (.cbld all scope a cc) s = .next (retire (issueBank (dropAnswers u) (newBankCmd (curIssuer s true scope none)
      (.cbld (bitsOf c 0 6) book dies) (bitsOf c 8 2) Handle.reset 0)))) ∧
  (∀ (s u : State) (scope : BitVec 3) (d a b cc : Spec) (rb : List Byte) (T : Tile),
    let answers (i : Instr) (ops : List Opnd) (w : State → State) (k : BankKind) : Prop :=
      let hv := operandValue s ops 1
      let h := handleAt s (curPart s) (handleSlot hv)
      let room := okRes (handleReady s h) = true
      currentHandle s (curPart s) hv = true →
      (s.svc = 1 → exec i s = .next (retire (writeDst (dropAnswers u) d 1))) ∧
      (s.svc ≠ 1 → room → exec i s = .next (retire (writeDst (issueBank (w (dropAnswers u))
        (newBankCmd (curIssuer s true scope (some (handleSlot hv))) k (h.stk / 2) h hv)) d 0)))
    let desc := descOf (leNat rb)
    let record (ops : List Opnd) (v : Word) : Prop := operandsReady s ops = true ∧ v.toNat % 64 = 0 ∧
      loadRange 2 (afterReads s ops) v 64 = .ok (u, rb) ∧ descReserved (leNat rb) = false ∧ descBanksOk desc = true
    okRes (mayAccess s .s) = true →
    (let ops := [opD .sdst d, opA .ssrc a, opB .ssrc b, opC .ssrc cc]
     let v := operandValue s ops
     (record ops (v 3) → descTableOk desc = true → answers (.tbld scope d a b cc) ops id (.tbld desc (v 2))) ∧
     (let c := (v 3).toNat
      let n := bitsOf c 16 11
      operandsReady s ops = true → bitsOf c 10 6 = 0 → bitsOf c 27 37 = 0 → 512 ≤ bitsOf c 0 10 → n ≠ 0 →
      bitsOf c 0 10 + n ≤ 1024 → (v 2).toNat % 4 = 0 → loadRange 40 (afterReads s ops) (v 2) (4 * n) = .ok (u, rb) →
      answers (.bpld scope d a b cc) ops id (.bpld (bitsOf c 0 10) ((words32 n rb).map (BitVec.ofNat 32))))) ∧
    (let ops := [opD .sdst d, opA .ssrc a, opB .ssrc b, opC .tile cc]
     let v := operandValue s ops 2
     let ok (ty : ETy) : Prop := needTile (curCtx s) cc = .ok T ∧ T.pf = false ∧ T.rows * T.rlen = desc.ncol ∧ T.ty = ty ∧
       (s.svc ≠ 1 → T.st = .empty) ∧ desc.ncol ≤ 65536
     let fill (w : State) : State := fillTile w (curKey s) (tileNo cc)
     record ops v → descKernelOk desc = true → descTableOk desc = true →
     (ok (if desc.ot then .i32 else .f32) → desc.ncol ≠ 0 →
       answers (.lkac scope d a b cc) ops fill (.lkac desc (tileNo cc) T)) ∧
     (isTile cc = true → ok .i32 → answers (.bkst scope d a b cc) ops fill (.bkst desc (some (tileNo cc, T))))) ∧
    (let ops := [opD .sdst d, opA .ssrc a, opB .ssrc b]
     record ops (operandValue s ops 2) → descKernelOk desc = true → descTableOk desc = true → desc.ncol = 0 →
     answers (.bkst scope d a b (.x false 0)) ops id (.bkst desc none)))

/-- The oldest command of a stack starts where the one before it has retired: `bpld` has written its words to the program
memory, `tbld` has built its tables, the kernel commands' banks begin at their first words, and a codebook of another width
faults (R286, R287, R290, R292). `cbld` writes its slot on each die (R297). A wave serves at most sw.bankmax and the
thermal limit of the die's banks, starts on no bank that requests wait for, and ends (after any number of cycles, log entry
29); a command that aborted leaves at its end (R291, R299). The lens adder writes the rows whose columns every bank has
sent; a command whose kernels have ended retires with its result tile ready (R286, R289), once no failed edge cuts off its
issuer (R8). That a table is built and the kernels begin within one turn is the model's choice (log entry 10); so are the
order of a die's queue, that of issue (log entry 105), and that no command of a partition starts from the moment its halt line
is up (log entry 3). -/
def Obligations.BankExecution : Prop :=
  (∀ (s : State) (stack id : Nat) (c : BankCmd),
    s.bankCmds.find? (fun e => !isCbld e.2 && e.2.stack = stack) = some (id, c) →
    let s0 := leaveQueues s (fun w => w = .cmd id)
    let book (d : BankDesc) : Codebook := c.book.getD ((dieAt s c.die).cb.getD d.slot.toNat Codebook.reset)
    let c1 (b : Option Codebook) : BankCmd :=
      { c with started := true, startNo := s.ids, sums := [], sats := 0, drained := 0, lastBank := none, book := b }
    let begun (t : State) (e : BankCmd) : State := bumpIds { t with bankCmds := tabPut t.bankCmds id e }
    let starts (t : State) : Prop := exec (.bankCommandStart stack) s = .next t
    (c.started = true ∨ c.faulted = true ∨ (partAt s c.issuer.part).line = true → starts s) ∧
    (c.started = false → c.faulted = false → (partAt s c.issuer.part).line = false →
      ((bankSlot c).map (cbldBefore s id c.die)).getD false = false →
      (∀ w0 ws, c.kind = .bpld w0 ws → ∃ t, starts t ∧ tabGet t.bankCmds id = some (c1 none) ∧
        ∀ j, tabD (stackAt t c.stack).prog j 0 =
          if w0 ≤ j ∧ j < w0 + ws.length then ws.getD (j - w0) 0 else tabD (stackAt s c.stack).prog j 0) ∧
      (∀ d act t p u b, c.kind = .tbld d act → (book d).b.toNat = d.b →
        ranges s0 c.issuer [⟨.va act, 0, d.nbank * d.gb * d.g, needR⟩] = .ok (t, p) →
        workReady t c.issuer p.flatten [] = .ok () → readPieces c.issuer t p.flatten = .ok (u, b) →
        starts (begun (endWalk (buildBanks u c d (book d) (b.map BitVec.toInt)) (.cmd id)) (c1 (some (book d))))) ∧
      (∀ d act g, c.kind = .tbld d act → (book d).b.toNat = d.b → workTbld s0 c d (book d) act = .error (.walk g) →
        starts (beginWalk (g s0) (.cmd id))) ∧
      (∀ d n t, c.kind = .lkac d n t → (book d).b.toNat = d.b →
        starts (begun (startKernels s0 id c d) { c1 (some (book d)) with
          scale := (f32Of (fvMul (f32Val (d.sact.zeroExtend 64)) (f32Val ((book d).scale.zeroExtend 64)))).truncate 32 })) ∧
      (∀ d r, c.kind = .bkst d r → starts (begun (startKernels s0 id c d) (c1 none))) ∧
      (∀ d, bankSlot c = some d.slot.toNat → (∃ act, c.kind = .tbld d act) ∨ (∃ n t, c.kind = .lkac d n t) →
        (book d).b.toNat ≠ d.b →
        starts (bankFaults s0 id { c with book := some (book d) } ⟨0x02, 0, c.issuer.word, 6, 0, none⟩)))) ∧
  (∀ (s : State) (c : BankCmd) (d : BankDesc) (book : Codebook) (acts : List Int) (i j k : Nat),
    descBanksOk d = true → descTableOk d = true → i < d.nbank → j < d.gb → k < 2 ^ (d.b * d.g) →
    tabD (buildBanks s c d book acts).tables
      (1024 * bankId c.stack (d.bank0 + i) + d.tb + j * 2 ^ (d.b * d.g) + k) 0 =
      BitVec.ofInt 32 (groupEntry book ((acts.drop (i * d.gb * d.g + j * d.g)).take d.g) k)) ∧
  (∀ (s : State) (die id slot : Nat) (c : BankCmd) (book : Codebook) (dies : List Nat),
    s.bankCmds.find? (fun e => cbldReady s die e.1 e.2) = some (id, c) → c.kind = .cbld slot book dies → slot < 64 →
    ∃ t, exec (.codebookWrite die) s = .next t ∧ (dieAt t die).cb[slot]? = some book ∧
      (∀ e, e ≠ die → dieAt t e = dieAt s e) ∧ (∀ j, j ≠ slot → (dieAt t die).cb[j]? = (dieAt s die).cb[j]?) ∧
      (tabGet t.bankCmds id).isSome = !(dies.filter (· ≠ die)).isEmpty) ∧
  (∀ (s : State) (die : Nat),
    let d := dieAt s die
    let n := min d.bankmax.toNat (bandLimit d.band)
    let live := s.bankWaits.filter (stillWaits s)
    let x := chooseBanks n { s with bankWaits := live } (runningCmds s die)
    x.2.length ≤ n ∧
    (d.wave.isSome = true ∨ x.2 = [] ∨ (∃ w ∈ live, w.bank ∈ x.2) ∨ deviceWaits s x.2 = true →
      exec (.waveStart die) s = .next s) ∧
    (d.wave = none → x.2 ≠ [] → (∀ w ∈ live, w.bank ∉ x.2) → deviceWaits s x.2 = false → exec (.waveStart die) s =
      .next (modDie x.1 die (fun e => { e with wave := some ⟨x.2, max d.bkidle.toNat (bandIdle d.band)⟩ }))) ∧
    (d.wave = none → exec (.waveEnd die) s = .next s) ∧
    (∀ w, d.wave = some w → ∃ t, exec (.waveEnd die) s = .next t ∧ (dieAt t die).wave = none ∧
      ∀ id c, tabGet s.bankCmds id = some c → c.die = die → (bankDesc c).isSome = true → c.aborted = true →
        tabGet t.bankCmds id = none)) ∧
  (∀ (s : State) (id : Nat) (c : BankCmd), tabGet s.bankCmds id = some c →
    let retires (t : State) : Prop := exec (.bankCommandRetire id) s = .next t
    (c.started = false ∨ c.faulted = true ∨ c.aborted = true ∨ (partAt s c.issuer.part).halted = true → retires s) ∧
    (c.started = true → c.faulted = false → c.aborted = false → (partAt s c.issuer.part).halted = false →
      (bankDesc c = none → isCbld c = false → retires (dropBank s id c)) ∧
      (∀ d, bankDesc c = some d → waveBanks s id c ≠ [] ∨ resultCut s c = true → retires s) ∧
      (∀ d, bankDesc c = some d → waveBanks s id c = [] → resultCut s c = false →
        let els := (List.range d.ncol).map (lensElement c (f32Result c))
        let u := drainRows s id d
        let counted (t : State) : State :=
          dropBank (addSat t c.issuer.slot c.issuer.part 2 (els.foldl (fun n e => n + e.2) c.sats)) id c
        (bankTile c = none → retires (counted s)) ∧
        (∀ n t, bankTile c = some (n, t) → sameIteration u c.issuer = true →
          retires (counted (tileReady u c.issuer.ctx n t.rows)))))) ∧
  (∀ (s : State) (id k n : Nat) (c : BankCmd) (d : BankDesc) (t : Tile), tabGet s.bankCmds id = some c →
    bankTile c = some (n, t) → resultCut s c = false → tileRowBytes t = 4 * t.rlen → c.drained * t.rlen ≤ k →
    k < columnsComplete s c d / t.rlen * t.rlen →
    memRead (drainRows s id d).mem (tilePa c.issuer.core t + 4 * k) 4 = leBytes 4 (lensElement c (f32Result c) k).1.toNat) ∧
  (∀ (s : State) (id : Nat) (c : BankCmd), tabGet (dropBank s id c).bankCmds id = none)

/-! ## Kernel words (R288 to R299) -/

/-- Each word of the address thread and of the arithmetic thread does what R294 and R295 give it; a thread with
nothing to pop waits while its producer runs and faults BANK_PROGRAM once it has ended; an unassigned word, or one out of
the kernel's range, faults BANK_PROGRAM; `b.mra` checks its rows in R294's order; `b.col` waits for a full IQ; a parity error
in the fetched word, in an index or in a table entry aborts the command (R289, R292 to R295, R299). That `b.act` takes the
exact sum of its row, that a jump out of the range faults at the next fetch, and that a loop of count 0 ends no outer pass
are the model's readings (log entries 58, 59, 60); the address 0 of the MEMORY_UNCORRECTABLE of `b.col` and `b.mra` is its
choice (log entry 67), and so is the row that `b.mra` leaves open (log entry 106). -/
def Obligations.KernelWords : Prop :=
  (∀ (s : State) (k : Kern), kernAt s = some k → k.desc.klo.toNat ≤ kernPc s k → kernPc s k ≤ k.desc.khi.toNat →
    s.cur.parity = .none →
    let b := k.blu
    let does (i : Instr) (u : Blu) : Prop := exec i s = .next (setBlu s k.bank u)
    let traps (i : Instr) : Prop := exec i s = .next (bankProgram s k (kernPc s k))
    let u := k.bank % 2048
    let slot := k.cmd.issuer.slot
    (∀ w, traps (.unassignedKernelWord w)) ∧
    (s.cur.arith = false →
      (∀ a imm, let r := (nReg b a).toNat + imm.toNat
        (b.openRow.isSome = true → traps (.kAct a imm)) ∧
        (b.openRow = none → r < k.cmd.nrow → exec (.kAct a imm) s = .next (setBlu (activate s k.bank (k.cmd.lo + r) 1 slot)
          k.bank { aNext b with openRow := some (k.cmd.lo + r) })) ∧
        (b.openRow = none → k.cmd.nrow ≤ r → exec (.kAct a imm) s =
          .next (kernFault s k ⟨0x07, BitVec.ofNat 64 r, BitVec.ofNat 64 k.cmd.nrow, 0, 0, none⟩))) ∧
      (∀ a imm row, let off := (nReg b a + imm.zeroExtend 32).toNat % 1024
        let pa := bankAddr k.cmd.stack u row off
        (b.openRow = none ∨ off % 32 ≠ 0 → traps (.kCol a imm)) ∧
        (b.openRow = some row → off % 32 = 0 → 64 ≤ b.iq.length → exec (.kCol a imm) s = .next s) ∧
        (b.openRow = some row → off % 32 = 0 → b.iq.length < 64 → poisoned s pa = true →
          exec (.kCol a imm) s = .next (kernFault s k ⟨0x11, 0, BitVec.ofNat 64 (128 * lineOf pa), 0, 0, none⟩)) ∧
        (b.openRow = some row → off % 32 = 0 → b.iq.length < 64 → poisoned s pa = false →
          does (.kCol a imm) { aNext b with iq := b.iq ++ [memRead s.mem pa 32] })) ∧
      does .kPre { aNext b with openRow := none } ∧
      (∀ x y z, let r := [x, y, z].map (fun i => (nReg b i).toNat)
        let abs := r.map (k.cmd.lo + ·)
        let row (i : Nat) : List Byte := memRead s.mem (bankAddr k.cmd.stack u (abs.getD i 0) 0) 1024
        let m := (List.range 1024).map (fun j => majority ((row 0).getD j 0) ((row 1).getD j 0) ((row 2).getD j 0))
        (b.openRow.isSome = true → traps (.kMra x y z)) ∧
        (∀ i, b.openRow = none → r.find? (fun i => decide (k.cmd.nrow ≤ i)) = some i → exec (.kMra x y z) s =
          .next (kernFault s k ⟨0x07, BitVec.ofNat 64 i, BitVec.ofNat 64 k.cmd.nrow, 0, 0, none⟩)) ∧
        (b.openRow = none → (∀ i ∈ r, i < k.cmd.nrow) → (¬abs.Nodup ∨ ∃ i ∈ abs, i < computeRow) →
          traps (.kMra x y z)) ∧
        (∀ l, b.openRow = none → (∀ i ∈ r, i < k.cmd.nrow) → abs.Nodup → (∀ i ∈ abs, computeRow ≤ i) →
          rowsPoison s k abs = some l →
          exec (.kMra x y z) s = .next (kernFault s k ⟨0x11, 0, BitVec.ofNat 64 (128 * l), 0, 0, none⟩)) ∧
        (b.openRow = none → (∀ i ∈ r, i < k.cmd.nrow) → abs.Nodup → (∀ i ∈ abs, computeRow ≤ i) →
        rowsPoison s k abs = none →
        exec (.kMra x y z) s = .next (setBlu (abs.foldl (fun s i => writeRow (activate s k.bank i 2 slot) k m i) s) k.bank
          { aNext b with openRow := some (abs.headD 0) }))) ∧
      (∀ a step cnt imm off,
        ∀ p ∈ ([(.kAloopR a step cnt off, (nReg b cnt).toNat), (.kAloopI a step imm off, imm.toNat + 1)] : List (Instr × Nat)),
          (off = 0 ∨ p.2 ≠ 0 ∧ b.aLoops.length = 4 → traps p.1) ∧
          (off ≠ 0 → p.2 = 0 → does p.1 { b with apc := b.apc + off.toNat + 1 }) ∧
          (off ≠ 0 → p.2 ≠ 0 → b.aLoops.length ≠ 4 → does p.1 (aNext { b with
            aLoops := ⟨a, step, 0, p.2 - 1, b.apc + 1, b.apc + off.toNat⟩ :: b.aLoops }))) ∧
      (∀ off, let t := kernTarget b.apc off.toInt
        does (.kAjmp off) { b with
          apc := t
          aLoops := b.aLoops.dropWhile (fun e => !(decide (e.start ≤ t) && decide (t ≤ e.last))) }) ∧
      (b.xEnded = false ∨ k.desc.ncol ≤ b.sent → does .kAend { b with openRow := none, aEnded := true }) ∧
      (∀ a v r, b.sq = v :: r → does (.kSqpop a) (aNext { b with sq := r, n := b.n.set a.toNat v a.isLt })) ∧
      (∀ a, b.sq = [] → if b.xEnded then traps (.kSqpop a) else exec (.kSqpop a) s = .next s)) ∧
    (s.cur.arith = true →
      (∀ l r, b.iq = l :: r → does .kIqpop (xNext { b with iq := r, ib := l })) ∧
      (b.iq = [] → if b.aEnded then traps .kIqpop else exec .kIqpop s = .next s) ∧
      (∀ (n : BitVec 3) (part : BitVec 2) (tb : BitVec 10) (bg : BitVec 4),
        let xi := (b.xLoops.head?.map KLoop.index).getD 0
        ∀ p ∈ ([(.kLk n part tb bg, tb.toNat, bg.toNat), (.kLkI n part tb bg, tb.toNat + xi * 2 ^ bg.toNat, bg.toNat),
            (.kLkD n part, k.desc.tb + xi * 2 ^ (k.desc.b * k.desc.g), k.desc.b * k.desc.g),
            (.kLkDn n part, k.desc.tb, k.desc.b * k.desc.g)] : List (Instr × Nat × Nat)),
          let r := lookupEight s k (8 * n.toNat) part.toNat p.2.1 p.2.2
          (p.2.2 = 0 ∨ 8 < p.2.2 ∨ 1024 < p.2.1 + 2 ^ p.2.2 → traps p.1) ∧
          (1 ≤ p.2.2 → p.2.2 ≤ 8 → p.2.1 + 2 ^ p.2.2 ≤ 1024 → k.cmd.faulted = false → k.cmd.aborted = false →
            exec p.1 s = .next (addPm (setBank (setBlu s k.bank (xNext r.1)) k.id { k.cmd with sats := k.cmd.sats + r.2 })
              slot 11 8)) ∧
          (∀ i, i < 8 → zReg r.1 (8 * n.toNat + i) = BitVec.ofInt 32 (satInt32 ((zReg b (8 * n.toNat + i)).toInt +
            (tableAt s k.bank (p.2.1 + (b.ib.getD (8 * part.toNat + i) 0).toNat % 2 ^ p.2.2)).toInt)).1) ∧
          (∀ i, i / 8 ≠ n.toNat → zReg r.1 i = zReg b i)) ∧
      (∀ (n : BitVec 6) (cnt : BitVec 7),
        (cnt = 0 ∨ 64 < n.toNat + cnt.toNat → traps (.kZclr n cnt) ∧ traps (.kZout n cnt)) ∧
        (cnt ≠ 0 → n.toNat + cnt.toNat ≤ 64 →
          (∃ z : Vector (BitVec 32) 64, does (.kZclr n cnt) (xNext { b with z := z }) ∧ ∀ i, i < 64 →
            z.getD i 0 = if n.toNat ≤ i ∧ i < n.toNat + cnt.toNat then 0 else zReg b i) ∧
          (k.cmd.faulted = false → k.cmd.aborted = false → ∃ sums, exec (.kZout n cnt) s =
              .next (drainRows (setBank (setBlu s k.bank (xNext { b with sent := b.sent + cnt.toNat })) k.id
                { k.cmd with sums := sums }) k.id k.desc) ∧
            ∀ col, tabD sums col 0 = tabD k.cmd.sums col 0 +
              if b.sent ≤ col ∧ col < b.sent + cnt.toNat ∧ col < k.desc.ncol then
                (zReg b (n.toNat + (col - b.sent))).toInt else 0))) ∧
      (∀ (r : BitVec 3) imm off,
        ∀ p ∈ ([(.kXloopR r off, (b.p[r.toNat]'r.isLt).toNat), (.kXloopI imm off, imm.toNat + 1)] : List (Instr × Nat)),
          (off = 0 ∨ p.2 ≠ 0 ∧ b.xLoops.length = 4 → traps p.1) ∧
          (off ≠ 0 → p.2 = 0 → does p.1 { b with xpc := b.xpc + off.toNat + 1 }) ∧
          (off ≠ 0 → p.2 ≠ 0 → b.xLoops.length ≠ 4 → does p.1 (xNext { b with
            xLoops := ⟨0, 0, 0, p.2 - 1, b.xpc + 1, b.xpc + off.toNat⟩ :: b.xLoops }))) ∧
      (b.aEnded = false ∨ k.desc.ncol ≤ b.sent → does .kXend { b with xEnded := true, endWord := b.xpc }) ∧
      (b.aEnded = true → b.sent < k.desc.ncol → exec .kXend s =
        .next (bankProgram (setBlu s k.bank { b with xEnded := true, endWord := b.xpc }) k b.xpc)) ∧
      (∀ n, b.sq.length < 16 → does (.kSqpush n) (xNext { b with sq := b.sq ++ [zReg b n.toNat] })) ∧
      (∀ n, 16 ≤ b.sq.length → exec (.kSqpush n) s = .next s))) ∧
  (∀ (s : State) (k : Kern) (w : BitVec 32), kernAt s = some k → k.desc.klo.toNat ≤ kernPc s k →
    kernPc s k ≤ k.desc.khi.toNat → s.cur.parity = .word →
    ∀ i ∈ ([.kPre, .kAend, .kIqpop, .kXend, .unassignedKernelWord w] : List Instr),
      exec i s = .next (kernAbort s k 2 (kernPc s k) 0)) ∧
  (∀ (s : State) (k : Kern), kernAt s = some k → kernPc s k < k.desc.klo.toNat ∨ k.desc.khi.toNat < kernPc s k →
    (∀ i : Instr, i.kind = .kernel → exec i s = .next (bankProgram s k (kernPc s k))) ∧
    ∀ w, exec (.unassignedKernelWord w) s = .next (bankProgram s k (kernPc s k))) ∧
  (∀ (s : State) (k : Kern), kernAt s = some k → k.desc.klo.toNat ≤ kernPc s k → kernPc s k ≤ k.desc.khi.toNat →
    s.cur.parity = .data →
    let b := k.blu
    (∀ a imm row, s.cur.arith = false → b.openRow = some row → (nReg b a + imm.zeroExtend 32).toNat % 1024 % 32 = 0 →
      b.iq.length < 64 → exec (.kCol a imm) s = .next (kernAbort s k 1 0 0)) ∧
    (s.cur.arith = true → b.iq ≠ [] → exec .kIqpop s = .next (kernAbort s k 1 0 0)) ∧
    (∀ (n : BitVec 3) (part : BitVec 2) (tb : BitVec 10) (bg : BitVec 4), s.cur.arith = true →
      let xi := (b.xLoops.head?.map KLoop.index).getD 0
      ∀ p ∈ ([(.kLk n part tb bg, tb.toNat, bg.toNat), (.kLkI n part tb bg, tb.toNat + xi * 2 ^ bg.toNat, bg.toNat),
          (.kLkD n part, k.desc.tb + xi * 2 ^ (k.desc.b * k.desc.g), k.desc.b * k.desc.g),
          (.kLkDn n part, k.desc.tb, k.desc.b * k.desc.g)] : List (Instr × Nat × Nat)),
        1 ≤ p.2.2 → p.2.2 ≤ 8 → p.2.1 + 2 ^ p.2.2 ≤ 1024 → ∃ copy, copy < 8 ∧ exec p.1 s =
          .next (kernAbort { s with free := s.free + 1 } k 0
            (p.2.1 + (b.ib.getD (8 * part.toNat + copy) 0).toNat % 2 ^ p.2.2) copy))) ∧
  (∀ (x y z : Byte) (i : Nat), (majority x y z).getLsbD i =
    decide (2 ≤ (x.getLsbD i).toNat + (y.getLsbD i).toNat + (z.getLsbD i).toNat)) ∧
  (∀ b : Blu, (∀ e ∈ b.aLoops.head?, e.last ≠ b.apc) → aNext b = { b with apc := b.apc + 1 }) ∧
  (∀ b : Blu, (∀ e ∈ b.xLoops.head?, e.last ≠ b.xpc) → xNext b = { b with xpc := b.xpc + 1 })

/-! ## Counters, waits, time, streams and work (R255 to R266, R335 to R349) -/

/-- `cadd` sends its add on its way; `cwait` and `cwaitx` complete where the counter has reached the target and stall below
it, and a value above the ceiling faults COUNTER_OVERRUN; `wait` and `ctrd.os` count the operations in flight and `ctrd.act`
reads a row's counts; the home that finds a target met releases the waiter (R337 to R342, R349). A fault leaves what the
walk and the evaluation of the counter did (R59, R244). That the acquire of a met wait orders later engine commands behind
the stores of the whole core is the model's reading (log entry 7). -/
def Obligations.Counters : Prop :=
  (∀ (s u : State) (scope : BitVec 3) (p : BitVec 5) (a b : Spec) (h : Hit),
    let ops := [opA .ssrc a, opB .ssrc b]
    let va := operandValue s ops 0
    let inc := operandValue s ops 1
    operandsReady s ops = true →
    (va.toNat % 8 ≠ 0 → exec (.cadd scope p a b) s = .next (raiseFault s ⟨0x04, va, 0, 0, 0, none⟩)) ∧
    (va.toNat % 8 = 0 → access (afterReads s ops) va 0 needRW = .ok (u, h) →
      let left := walked va.toNat 0 needRW s
      (∀ pa, h.tgt = .scratch pa → exec (.cadd scope p a b) s = .next (raiseFault left ⟨0x06, va, 0, 0, 0, none⟩)) ∧
      ((∀ pa, h.tgt ≠ .scratch pa) →
        (inc.toInt < 0 → exec (.cadd scope p a b) s = .next (raiseFault left ⟨0x0A, va, inc, 0, 0, none⟩)) ∧
        (0 ≤ inc.toInt → exec (.cadd scope p a b) s = .next (retire (bumpIds (dropAhead { u with
          wts := tabPut u.wts s.ids { curWt s .s h with kind := .cadd inc p scope s.ids } }
          (curWt s .s h).pa 8))))))) ∧
  (∀ (s u t : State) (scope : BitVec 3) (a b c : Spec) (cx : Bool) (h : Hit) (v : Word),
    let ops := [opA .ssrc a, opB .ssrc b] ++ if cx then [opC .ssrc c] else []
    let i : Instr := if cx then .cwaitx scope a b c else .cwait scope a b
    let va := operandValue s ops 0
    let target := operandValue s ops 1
    let ceil := operandValue s ops 2
    let pa := targetPa h.tgt
    let waits (w : State) : State := boundaryReset (modSeq w (fun q => { q with
      status := .waiting (.counter pa va target (if cx then some ceil else none)), why := .none }))
    operandsReady s ops = true →
    let left := walked va.toNat 0 needR s
    ((curSeq s).status = .running → va.toNat % 8 = 0 →
      access (afterReads s ops) va 0 needR = .ok (u, h) → (∀ pa, h.tgt ≠ .scratch pa) →
      (cx = true → ceil.toNat < target.toNat → exec i s = .next (raiseFault left ⟨0x02, 0, s.cur.word, 6, 0, none⟩)) ∧
      ((cx = true → target.toNat ≤ ceil.toNat) →
        (seqWtOver s (curKey s) s.cur.side pa 8 = true → exec i s = .next (waits left)) ∧
        (∀ g, seqWtOver s (curKey s) s.cur.side pa 8 = false →
          counterNow u (curAsker s) (curPart s) (curCore s) (some s.cur.slot) pa va = .wait g →
          exec i s = .next (waits (askCounter (atCounter left pa va) (curAsker s) (curPart s) (curCore s) pa target))) ∧
        (∀ f g, seqWtOver s (curKey s) s.cur.side pa 8 = false →
          counterNow u (curAsker s) (curPart s) (curCore s) (some s.cur.slot) pa va = .fault f g →
          exec i s = .next (raiseFault (g left) f)) ∧
        (seqWtOver s (curKey s) s.cur.side pa 8 = false →
          counterNow u (curAsker s) (curPart s) (curCore s) (some s.cur.slot) pa va = .value t v →
          (v.toNat < target.toNat → exec i s = .next (waits (dropAnswers (atCounter left pa va)))) ∧
          (target.toNat ≤ v.toNat → (cx = true → v.toNat ≤ ceil.toNat) → exec i s = .next (waitDone t)) ∧
          (target.toNat ≤ v.toNat → cx = true → ceil.toNat < v.toNat →
            exec i s = .next (raiseFault (atCounter left pa va) ⟨0x0B, va, v, 0, 0, none⟩))))) ∧
    ((curSeq s).status = .waiting (.satisfied none) → exec i s = .next (waitDone (afterReads s ops))) ∧
    (∀ o, (curSeq s).status = .waiting (.satisfied (some o)) →
      exec i s = .next (raiseFault s ⟨0x0B, o.1, o.2, 0, 0, none⟩))) ∧
  (∀ (s : State) (set : BitVec 5) (b d : Spec),
    (let ops := [opB .ssrc b]
     let n := operandValue s ops 0
     operandsReady s ops = true →
     (set.getLsbD 4 = true → exec (.wait set b) s = .next (raiseFault s ⟨0x02, 0, s.cur.word, 5, 0, none⟩)) ∧
     (set.getLsbD 4 = false → set = 0 ∨ outstandingSum s set ≤ n.toNat →
       exec (.wait set b) s = .next (retire (afterReads s ops))) ∧
     (set.getLsbD 4 = false → set ≠ 0 → n.toNat < outstandingSum s set → exec (.wait set b) s = .next (boundaryReset
       (modSeq s (fun q => { q with status := .waiting (.outstanding set n), why := .none }))))) ∧
    (let ops := [opD .sdst d]
     operandsReady s ops = true → set.getLsbD 4 = false → exec (.ctrdOs d set) s =
       .next (retire (writeDst (afterReads s ops) d (BitVec.ofNat 64 (outstandingSum s set)))))) ∧
  (∀ (s : State) (d a b : Spec),
    let ops := [opD .sdst d, opA .ssrc a, opB .ssrc b]
    let hv := operandValue s ops 1
    let loc := (operandValue s ops 2).toNat
    let h := handleAt s (curPart s) (handleSlot hv)
    let row := bitsOf loc 16 16
    operandsReady s ops = true → currentHandle s (curPart s) hv = true → bitsOf loc 11 5 = 0 → bitsOf loc 32 32 = 0 →
    (row < h.nrow → exec (.ctrdAct d a b) s =
      .next (retire (writeDst (afterReads s ops) d (rowCounts s (bankId h.stk (bitsOf loc 0 11)) (h.lo + row))))) ∧
    (h.nrow ≤ row → exec (.ctrdAct d a b) s =
      .next (raiseFault s ⟨0x07, BitVec.ofNat 64 row, BitVec.ofNat 64 h.nrow, 0, 0, none⟩))) ∧
  (∀ (s t : State) (cluster cid pa : Nat) (sd : Side) (c : Ctx) (va target v : Word) (ceil : Option Word),
    let key := ctxKey cluster cid
    let drop (w : State) : State := { w with answers := w.answers.filter (fun e => e.2.ask.who ≠ .seq key sd) }
    let inSlot : Option Nat := match c.place with | .inSlot n => some n | _ => none
    tabGet s.ctxs key = some c → (seqOf c sd).status = .waiting (.counter pa va target ceil) →
    (∀ a, window s c.core pa = .host a → exec (.hostCounterPoll cluster cid sd) s =
      .next (askCounter s (.seq key sd) c.part c.core pa target)) ∧
    (seqWtOver s key sd pa 8 = true → exec (.cwaitSatisfied cluster cid sd) s = .next s) ∧
    (∀ f g, seqWtOver s key sd pa 8 = false →
      counterNow (leaveQueues s (fun w => w = .seq key sd)) (.seq key sd) c.part c.core inSlot pa va = .fault f g →
      exec (.cwaitSatisfied cluster cid sd) s =
        .next (raiseCtxFault (g (leaveQueues s (fun w => w = .seq key sd))) key sd f)) ∧
    (seqWtOver s key sd pa 8 = false →
      counterNow (leaveQueues s (fun w => w = .seq key sd)) (.seq key sd) c.part c.core inSlot pa va = .value t v →
      tabGet t.ctxs key = some c →
      (v.toNat < target.toNat → exec (.cwaitSatisfied cluster cid sd) s = .next (drop t)) ∧
      (target.toNat ≤ v.toNat → overCeiling v ceil = false → exec (.cwaitSatisfied cluster cid sd) s = .next
        (modCtx (drop t) key (fun c => setSeq c sd { seqOf c sd with status := .waiting (.satisfied none) }))) ∧
      (target.toNat ≤ v.toNat → overCeiling v ceil = true → (partAt t c.part).line = true →
        exec (.cwaitSatisfied cluster cid sd) s = .next
          (modCtx (drop t) key (fun c => setSeq c sd { seqOf c sd with status := .waiting (.satisfied (some (va, v))) }))) ∧
      (target.toNat ≤ v.toNat → overCeiling v ceil = true → (partAt t c.part).line = false →
        exec (.cwaitSatisfied cluster cid sd) s = .next (raiseCtxFault (drop t) key sd ⟨0x0B, va, v, 0, 0, none⟩))))

/-- R344: `tnow d` writes the time base into d and shifts the last-result file; `tat a` stalls the sequencer until the time
base is at least Unsigned(a), and a time that has already passed completes at once. -/
def Obligations.TimeBase : Prop :=
  (∀ (s : State) (d : Spec), operandsReady s [opD .sdst d] = true →
    let now := BitVec.ofNat 64 s.now
    exec (.tnow d) s = .next (retire (writeDst (afterReads s [opD .sdst d]) d now)) ∧
    ∀ i t, d = .x false i → i ≠ 0 → inSlot s → exec (.tnow d) s = .next t →
      xRead (curSeq t) i = now ∧ (curSeq t).l = #v[now, (curSeq s).l[0], (curSeq s).l[1], (curSeq s).l[2]]) ∧
  (∀ (s : State) (a : Spec),
    let ops := [opA .ssrc a]
    let v := operandValue s ops 0
    operandsReady s ops = true →
    (v.toNat ≤ s.now → exec (.tat a) s = .next (retire (afterReads s ops))) ∧
    (s.now < v.toNat → exec (.tat a) s =
      .next (modSeq s (fun q => { q with status := .until v, why := .none })))) ∧
  (∀ (s : State) (slot key : Nat) (sd : Side) (t : Word), (slotAt s slot).ctx = some key →
    (seqOf (ctxAt s key) sd).status = .until t →
    (s.now < t.toNat → exec (.timeBaseReached slot sd) s = .next s) ∧
    (t.toNat ≤ s.now → exec (.timeBaseReached slot sd) s =
      .next (modCtx s key (fun c => setSeq c sd { seqOf c sd with status := .running }))))

/-- `sbind` binds an unbound, empty queue to a stream, and an empty stream binds nothing; `sfree` ends a binding; a load stream
reads its next element into its queue, or one again that an acquire has made stale, and a store stream writes the oldest entry
of its queue, unless its partition is halted; a register-cache miss ends with the register in the cache, with the value its
block holds, once the block's line can be read (R84, R255 to R258). That a stale element is read again in its place, after its
binding has ended too, and that a store stream is bound until its last element is written are the model's choices (log entries
64, 91). -/
def Obligations.Streams : Prop :=
  (∀ (s : State) (z : BitVec 3) (sx dir : Bool) (i : BitVec 2) (a b cc : Spec),
    let ops := [opD .qName (.q i), opA .ssrc a, opB .ssrc b, opC .ssrc cc]
    let base := operandValue s ops 1
    let stride := operandValue s ops 2
    let n := (operandValue s ops 3).toNat
    let c := curCtx s
    let j : Instr := if dir then .sbindSt z sx (.q i) a b cc else .sbindLd z sx (.q i) a b cc
    operandsReady s ops = true →
    ((bindOf c i).bound = true ∨ qOf c i ≠ [] → exec j s = .next (raiseFault s ⟨0x02, 0, s.cur.word, 1, 0, none⟩)) ∧
    ((bindOf c i).bound = false → qOf c i = [] → z.toNat < 4 → (sx = true → z ≠ 3 ∧ dir = false) → n < 2 ^ 32 →
      -8388608 ≤ stride.toInt → stride.toInt ≤ 8388607 → base.toNat % 2 ^ z.toNat = 0 → stride.toNat % 2 ^ z.toNat = 0 →
      exec j s = .next (retire (if n = 0 then afterReads s ops else modCur (afterReads s ops) (fun c =>
        setBind c i ⟨base, BitVec.ofNat 32 n, BitVec.ofInt 24 stride.toInt, z, sx, dir, true, s.cur.side⟩))))) ∧
  (∀ (s : State) (i : BitVec 2),
    let ops := [opD .qName (.q i)]
    let c := curCtx s
    operandsReady s ops = true →
    ((bindOf c i).bound = false → exec (.sfree (.q i)) s = .next (retire (afterReads s ops))) ∧
    ((bindOf c i).bound = true → (bindOf c i).dir = false → exec (.sfree (.q i)) s = .next (retire
      (modCur (forget (afterReads s ops) (fun w => w = .stream (curKey s) i.toNat)) (fun c =>
        setBind (setQ c i ((qOf c i).filter (fun e => !e.stream))) i Binding.unbound)))) ∧
    ((bindOf c i).bound = true → (bindOf c i).dir = true → streamCount (qOf c i) = 0 →
      streamWts s (curKey s) c i.toNat = false → exec (.sfree (.q i)) s =
        .next (retire (modCur (afterReads s ops) (fun c => setBind c i Binding.unbound))))) ∧
  (∀ (s v : State) (slot q key : Nat) (x : Word), (slotAt s slot).ctx = some key → q < 4 →
    let c := ctxAt s key
    let i := BitVec.ofNat 2 q
    let b := bindOf c i
    let t := atSlot (leaveQueues s (fun w => w = .stream key q)) slot b.own
    let s1 := { t with cur := { t.cur with strm := some q } }
    let fills (u : State) : Prop := exec (.loadStreamFill slot q) s = .next { endWalk u (.stream key q) with cur := s.cur }
    partRuns s c.part = true → fillHeld s1 (walkSince s (.stream key q)) = false →
    (∀ e, (qOf c i).find? QEnt.stale = some e → readElement s1 i e.va = .ok (v, x) →
      fills (modCur v (fun c => setQ c i (renewElement x (qOf c i))))) ∧
    (let va := streamAddr b (streamCount (qOf c i))
     (qOf c i).any QEnt.stale = false → loadBound c i = true → (qOf c i).length < 32 → readElement s1 i va = .ok (v, x) →
     fills (modCur v (fun c => pushElement c i x va s.ids)))) ∧
  (∀ (s u v : State) (i : BitVec 2) (va : Word) (h : Hit) (bs : List Byte),
    let b := bindOf (curCtx s) i
    let x : Word := BitVec.ofNat 64 (leNat bs)
    okRes (elementFault s i va) = true → access s va 0 needR = .ok (u, h) →
    loadBytes u h va 0 (2 ^ b.z.toNat) false = .ok (v, bs) →
    readElement s i va = .ok (dropAnswers v, if b.sx then signExt (2 ^ b.z.toNat) x else x)) ∧
  (∀ (c : Ctx) (i : BitVec 2) (x va : Word) (id : Nat),
    let d := pushElement c i x va id
    qOf d i = qOf c i ++ [⟨x, true, id, 0, 0, va, 0, false, false⟩] ∧
    (bindOf d i).bound = decide (streamCount (qOf c i) + 1 < (bindOf c i).remain.toNat)) ∧
  (∀ (s : State) (slot q key : Nat) (e : QEnt) (r : List QEnt), (slotAt s slot).ctx = some key → q < 4 →
    let c := ctxAt s key
    let i := BitVec.ofNat 2 q
    let b := bindOf c i
    b.bound = true → b.dir = true → qOf c i = e :: r → e.stream = true →
    ((partAt s c.part).halted = true → exec (.storeStreamWrite slot q) s = .next s) ∧
    ((partAt s c.part).halted = false → exec (.storeStreamWrite slot q) s =
      .next (boundaryOf (modCtx (issueElement s key q c b e) key (fun c => dropElement c i)) key))) ∧
  (∀ (s : State) (slot key : Nat) (sd : Side) (i : BitVec 5), (slotAt s slot).ctx = some key →
    (slotAt s slot).fill = some (sd, i) → i ≠ 0 →
    let a := ctxBlock s key + xOffset sd i
    let r := readyRange false (ctxAt s key).part (ctxAt s key).core false a 8 (s, true)
    (r.2 = false → exec (.registerCacheFill slot) s = .next r.1) ∧
    (r.2 = true → ∃ t, exec (.registerCacheFill slot) s = .next t ∧
      (slotAt t slot).fill = none ∧ i ∈ (seqOf (ctxAt t key) sd).rc ∧
      (∀ j, xRead (seqOf (ctxAt t key) sd) j =
        if j = i ∧ (seqOf (ctxAt s key) sd).live.getLsbD i.toNat = true then memWord r.1.mem a
        else xRead (seqOf (ctxAt s key) sd) j)))

/-- `yield` stalls at a wait boundary and goes on where no other work wants the slot and every other ready sequencer of the
core has had its issue slot; `done` ends its sequencer, and the iteration with the second, which frees
its context and its slot and counts for its task; `post` answers 2 for a malformed record, 1 where the pool has no room, and
0 with the task accepted, once no failed edge lies on its way (R8, R262 to R266). -/
def Obligations.Work : Prop :=
  (∀ s : State,
    (∀ o, (curSeq s).status = .waiting (.satisfied o) → exec .yield s = .next (retire s)) ∧
    let waits (owed : List (Nat × Side)) : State :=
      boundaryReset (modSeq s (fun q => { q with status := .waiting (.yield owed), why := .none }))
    (∀ owed, (curSeq s).status = .waiting (.yield owed) →
      (pickWork s s.cur.slot (some (curKey s)) = none → (slotAt s s.cur.slot).mirror.wantsNothing = true →
        leavingRunnable s (curCore s) = false → (∀ e ∈ owed, seqReady s e.1 e.2 = false) →
        exec .yield s = .next (retire s)) ∧
      (pickWork s s.cur.slot (some (curKey s)) ≠ none ∨ (slotAt s s.cur.slot).mirror.wantsNothing = false ∨
          leavingRunnable s (curCore s) = true ∨ (∃ e ∈ owed, seqReady s e.1 e.2 = true) →
        exec .yield s = .next (waits owed))) ∧
    ((curSeq s).status = .running → exec .yield s = .next (waits (readyOthers s)))) ∧
  (∀ s : State, (∀ e ∈ s.mx, e.2.ctx ≠ curKey s) →
    let u := boundaryReset (modSeq (retire s) (fun q => { q with status := .done }))
    (iterationOver (curCtx u) = false → exec .done s = .next u) ∧
    (iterationOver (curCtx u) = true → (curCtx u).fault = none → inSlot s → (curCtx s).place = .inSlot s.cur.slot →
      ∃ t, exec .done s = .next t ∧
      tabGet t.ctxs (curKey s) = none ∧ (slotAt t s.cur.slot).ctx = none ∧
      (∀ n, tabGet s.tasks (curCtx s).task = some n → tabGet t.tasks (curCtx s).task =
        some { n with ended := n.ended + 1, cuts := tabPut n.cuts (curCtx s).core t.ids }))) ∧
  (∀ (s u : State) (d a b : Spec) (bytes : List Byte),
    let posts (i : Instr) (ops : List Opnd) (n : Nat) : Prop :=
      let va := operandValue s ops 1
      let r := recOf (leNat bytes)
      let answer (t : State) (st : Word) : State := retire (writeDst (dropAnswers t) d st)
      operandsReady s ops = true → n < 16 → (partAt s (curPart s)).clus.getLsbD n = true →
      diesCut s (dieOfSlot s.cur.slot) (dieOfCluster n) = false → va.toNat % 128 = 0 →
      okRes (mayAccess s .s) = true → loadRange 2 (afterReads s ops) va 128 = .ok (u, bytes) →
      (recMalformed r = true → exec i s = .next (answer u 2)) ∧
      (∀ v pa, recMalformed r = false → postCounter u r = .ok (v, pa) →
        (poolEntry s n r.prio = none → exec i s = .next (answer v 1)) ∧
        (∀ e, poolEntry s n r.prio = some e →
          exec i s = .next (answer (acceptTask v (curPart s) n r va pa e (curCore s) s.ids) 0)))
    posts (.post d a) [opD .sdst d, opA .ssrc a] (clusterOfSlot s.cur.slot) ∧
    (let ops := [opD .sdst d, opA .ssrc a, opB .ssrc b]
     posts (.postC d a b) ops (operandValue s ops 2).toNat))

/-! ## Homes, messages and links (R159, R232 to R250, R338, R374 to R378) -/

/-- A store or counter add that reaches its home writes there and is acknowledged, or waits where the host shares the line or
the home cannot serve it yet; the home supplies and records copies, lets an engine command take its destination's lines,
grants partials and takes back what is evicted; a request of the host or of another package that the partition allows is
served, and one it does not allow is refused with status 1 (R159 to R161, R235 to R250, R338, R376). Waiters on what was
written are evaluated with it (R339). What a refused add of another package answers, and an atomic on a poisoned word, are
the model's choices (log entries 31, 42). -/
def Obligations.HomeTransitions : Prop :=
  (∀ (s : State) (id pa : Nat) (w : Wt), tabGet s.wts id = some w → w.phase = .toHome →
    wtBehind s id w = false → addHeld s w = false → addStops s w = false →
    window s w.core w.pa = .device pa ∨ window s w.core w.pa = .own pa → cutOff s w.core (window s w.core w.pa) = false →
    (dirAt s (lineOf pa)).st ≠ .gathering →
    let s0 := leaveQueues s (fun x => x = .wt id)
    let u := homeLine s0 (lineOf pa) (wtSlot w)
    (hostShares s (lineOf pa) = true → hostOwns s (lineOf pa) = false → lineBusy s (lineOf pa) = false →
      ∃ t, exec (.writeThrough id) s = .next t ∧ tabGet t.wts id = some { w with phase := .hostCopy } ∧ t.mem = s.mem) ∧
    (∀ g, hostShares s (lineOf pa) = false → homeHolds s0 (.wt id) w.part w.core (lineOf pa) true = some g →
      ∃ t, exec (.writeThrough id) s = .next t ∧ t.mem = s.mem ∧ t.wts = s.wts) ∧
    (homeHolds s0 (.wt id) w.part w.core (lineOf pa) true = none →
      let stores (b : List Byte) : Prop := ∃ t, exec (.writeThrough id) s = .next t ∧ memRead t.mem pa b.length = b ∧
        (∀ a, a < pa ∨ pa + b.length ≤ a → memByte t.mem a = memByte u.mem a) ∧ tabGet t.wts id = none
      (w.kind = .store → stores w.bytes) ∧
      (∀ v x, w.kind = .half v x → stores [lowHalf (memByte u.mem pa) v]) ∧
      (∀ inc p sc cut, w.kind = .cadd inc p sc cut → poisoned u pa = false →
        ((memWord u.mem pa).toNat + inc.toNat < 2 ^ 64 → stores (leBytes 8 ((memWord u.mem pa).toNat + inc.toNat))) ∧
        (2 ^ 64 ≤ (memWord u.mem pa).toNat + inc.toNat → exec (.writeThrough id) s =
          .next (wakeWaiters (faultWt u id w ⟨0x0B, w.va, BitVec.allOnes 64, 0, 0, none⟩)))))) ∧
  (∀ (s : State) (line core cache : Nat), deviceLine line = true →
    let u := homeLine s line none
    (isCache cache = true →
      (∀ g, homeReady s (coreOfCache cache) line false = some g → exec (.readShared cache line) s = .next (g s)) ∧
      (homeReady s (coreOfCache cache) line false = none → ∃ t, exec (.readShared cache line) s = .next t ∧
        (dirAt t line).st = .shared ∧ cache ∈ copiesOf t line ∧ t.mem = u.mem)) ∧
    (∀ n c, tabGet s.cmds n = some c → line ∈ c.lines → c.faulted = false → c.stage ≠ 2 →
      (∀ g, homeReady s c.issuer.core line true = some g → exec (.readOwn line (.engine n)) s = .next (g s)) ∧
      (homeReady s c.issuer.core line true = none → ∃ t, exec (.readOwn line (.engine n)) s = .next t ∧
        (dirAt t line).st = .owned (.engine n) ∧ copiesOf t line = [] ∧ t.mem = u.mem)) ∧
    (∀ (tag : BitVec 4), core < 1536 → tag ≠ 0 → tag ≠ 14 → tag ≠ 15 →
      (∀ g, homeReady s core line true = some g → exec (.facetRequest core line tag) s = .next (g s)) ∧
      (∀ t, homeReady s core line true = none →
        (facetGrant (deliverNotice s core line) core line tag none = .granted t →
          exec (.facetRequest core line tag) s = .next (allocLine t core line 0 false)) ∧
        (facetGrant (deliverNotice s core line) core line tag none = .focused t →
          exec (.facetRequest core line tag) s = .next t)))) ∧
  (∀ (s : State) (core line cache : Nat), deviceLine line = true →
    ((core, line) ∈ s.notices → core ∉ copiesOf s line → hostLineAt s line = none → noticeCut s core line = false →
      (∀ tag p, (dirAt s line).st = .faceted tag → tabGet s.partials (partialKey core line) = some p →
        ∃ t, exec (.partialPark core line) s = .next t ∧ tabGet t.partials (partialKey core line) = none ∧
          core ∉ (dirAt t line).holders ∧ tabGet (dirAt t line).parked (core % 16) = some
            (match tabGet (dirAt s line).parked (core % 16) with | some r => partialJoin r p | none => p)) ∧
      (∀ p, (dirAt s line).st = .gathering → waveHolds s line true = false →
        tabGet s.partials (partialKey core line) = some p →
        ∃ t, exec (.disjCopyEviction core line) s = .next t ∧ tabGet t.partials (partialKey core line) = none ∧
          ∀ i, i < 128 → memByte t.mem (128 * line + i) =
            if p.touched.getLsbD i then p.bytes.getD i 0 else memByte s.mem (128 * line + i))) ∧
    (noticeCut s core line = true ∨ (dirAt s line).st = .gathering ∧ waveHolds s line true = true →
      exec (.disjCopyEviction core line) s = .next s ∧ exec (.evictionNotice core line) s = .next s) ∧
    (noticeCut s core line = true → exec (.partialPark core line) s = .next s) ∧
    ((cache, line) ∈ s.notices → cache ∉ copiesOf s line → hostLineAt s line = none → (dirAt s line).st = .shared →
      noticeCut s cache line = false →
      (dirAt s line).map = none → ∃ t, exec (.evictionNotice cache line) s = .next t ∧
        (dirAt t line).sharers = (dirAt s line).sharers.filter (· ≠ cache) ∧ t.mem = s.mem) ∧
    ((core, line) ∉ s.notices → exec (.partialPark core line) s = .next s ∧ exec (.disjCopyEviction core line) s = .next s ∧
      exec (.evictionNotice core line) s = .next s)) ∧
  (∀ (s : State) (req : HostReq) (mask : BitVec 128) (data : BitVec 1024) (op : AtomicOp) (sz : BitVec 2)
      (b c : BitVec 128),
    let line := lineOf req.addr
    let u := servedLine s line none
    let all : List Instr := [.rdShared req, .rdOwn req, .rdCur req, .wrLine req mask data, .atomic req op sz b c]
    let back (t : State) (st : DirSt) : State := if hostOwns u line then setDir t line { dirAt t line with st := st } else t
    (hostAllowed s req = false → ∀ i ∈ all, exec i s = .next (answerHost s req 0x0C 1 false [])) ∧
    (hostAllowed s req = true → hostHolds s line false = true → ∀ i ∈ all, exec i s = .next s) ∧
    (hostAllowed s req = true → hostHolds s line true = false →
      (let v := back u .uncached
       exec (.rdShared req) s = .next (wakeWaiters (answerData (noteRead
         (setDir v line (addSharer (dirAt v line) hostCache)) line hostCache) req))) ∧
      exec (.rdOwn req) s = .next (wakeWaiters (if hostShares u line then askInval u .home line req.part.toNat else
        answerData (setDir (dropCopies u line []) line { DirEntry.reset with st := .owned .host }) req)) ∧
      exec (.rdCur req) s = .next (wakeWaiters (answerData (noteRead u line hostCache) req)) ∧
      exec (.wrLine req mask data) s = .next (wakeWaiters (answerHost (writeMasked u line mask data true) req 0x0C 0 false [])) ∧
      (poisoned u req.addr = true →
        exec (.atomic req op sz b c) s = .next (wakeWaiters (answerHost u req 0x0B 0 true (atomicAnswer sz 0)))) ∧
      (poisoned u req.addr = false → outsideAtomic u req.addr op (atomicBytes sz) b c true = none →
        exec (.atomic req op sz b c) s = .next (wakeWaiters (answerHost u req 0x0C 1 false []))) ∧
      (∀ v old, poisoned u req.addr = false → outsideAtomic u req.addr op (atomicBytes sz) b c true = some (v, old) →
        exec (.atomic req op sz b c) s = .next (wakeWaiters (answerHost v req 0x0B 0 false (atomicAnswer sz old)))))) ∧
  (∀ (s : State) (line i : Nat) (mask : BitVec 128) (data : BitVec 1024) (coherent : Bool), i < 128 →
    memByte (writeMasked s line mask data coherent).mem (128 * line + i) =
      if mask.getLsbD i then data.extractLsb' (8 * i) 8 else memByte s.mem (128 * line + i)) ∧
  (∀ (s : State) (req : BftReq) (len : Nat) (mask : BitVec 128) (data : BitVec 1024) (op : AtomicOp) (sz : BitVec 2)
      (b c : BitVec 128) (inc target : Word),
    let pa := req.addr % deviceEnd
    let line := lineOf pa
    let u := servedLine s line none
    let answer (t : State) (ps : Bool) (p : List Byte) : State := wakeWaiters (answerBft t req 0 ps p)
    let all : List Instr := [.rd req len, .wr req mask data, .bftAtomic req op sz b c, .ctrAdd req inc, .ctrWait req target]
    let holds := homeHolds s .home req.part.toNat (portCore (routeOf s req.snode)) line
    let v := noteRead u line hostCache
    ((partAt s req.part.toNat).configured = false ∨ deviceAllowed s req.part.toNat pa = false →
      ∀ i ∈ all, exec i s = .next (answerBft s req 1 false [])) ∧
    ((partAt s req.part.toNat).configured = true → deviceAllowed s req.part.toNat pa = true →
      (1 ≤ len → pa % 128 + len ≤ 128 →
        (waveHolds s line false = true → exec (.rd req len) s = .next s) ∧
        (∀ g, waveHolds s line false = false → holds false = some g → exec (.rd req len) s = .next (g s)) ∧
        (waveHolds s line false = false → holds false = none → exec (.rd req len) s =
          .next (answer v (poisoned v pa) (memRead v.mem pa len)))) ∧
      (pa % 8 = 0 →
        (waveHolds s line false = true → exec (.ctrWait req target) s = .next s) ∧
        (∀ g, waveHolds s line false = false → holds false = some g → exec (.ctrWait req target) s = .next (g s)) ∧
        (waveHolds s line false = false → holds false = none → exec (.ctrWait req target) s = .next (wakeWaiters { v with
          waiters := v.waiters ++ [⟨req.snode, req.part.toNat, req.tag, pa, target⟩] }))) ∧
      (waveHolds s line true = true → exec (.wr req mask data) s = .next s ∧ exec (.ctrAdd req inc) s = .next s ∧
        (op ≠ .counterAdd → exec (.bftAtomic req op sz b c) s = .next s)) ∧
      (∀ g, waveHolds s line true = false → holds true = some g → exec (.wr req mask data) s = .next (g s) ∧ exec (.ctrAdd req inc) s = .next (g s) ∧
        (op ≠ .counterAdd → exec (.bftAtomic req op sz b c) s = .next (g s))) ∧
      (waveHolds s line true = false → holds true = none →
        exec (.wr req mask data) s = .next (answer (writeMasked u line mask data false) false []) ∧
        (poisoned u pa = true → exec (.ctrAdd req inc) s = .next (answer u true (leBytes 8 0)) ∧
          (op ≠ .counterAdd → exec (.bftAtomic req op sz b c) s = .next (answer u true (atomicAnswer sz 0)))) ∧
        (poisoned u pa = false →
          (∀ v old, op ≠ .counterAdd → outsideAtomic u pa op (atomicBytes sz) b c false = some (v, old) →
            exec (.bftAtomic req op sz b c) s = .next (answer v false (atomicAnswer sz old))) ∧
          (∀ v old, outsideAtomic u pa .counterAdd 8 (inc.zeroExtend 128) 0 false = some (v, old) →
            exec (.ctrAdd req inc) s = .next (answer v false (leBytes 8 old.toNat))) ∧
          (outsideAtomic u pa .counterAdd 8 (inc.zeroExtend 128) 0 false = none → exec (.ctrAdd req inc) s =
            .next (wakeWaiters (answerBft (noteRead u line hostCache) req 1 false (leBytes 8 (memWord u.mem pa).toNat))))))))

/-- An answer that comes for a request that is outstanding is kept for who asked, or ends the write that waits for it; a
copy that the host gives up is recorded at the home; a recall of a line that the package owns is noted, and answered by the
WbOwn of the `amo` that holds the line, as that executes; an access outstanding for 10 ms faults LINK_FAILURE (R247 to R249,
R278, R374 to R378). That the recall waits for that, and that a late answer is dropped, are the model's choices (log entries
63, 11). -/
def Obligations.Answers : Prop :=
  (∀ (s : State) (line : Nat) (bytes : BitVec 1024),
    (hostCopiesCut s line = false →
      ∃ t, exec (.inval line) s = .next t ∧ (∀ e ∈ t.hostdir, e.1 ≠ line) ∧ t.mem = s.mem) ∧
    (hostCopiesCut s line = true → exec (.inval line) s = .next s) ∧
    (let asked := hasAsk s (fun a => a.code = 0x05 && a.addr = 128 * line && a.link = 0)
     (asked = false → exec (.invAck line) s = .next s) ∧
     (asked = true → (∀ e ∈ s.wts, ¬(lineOf e.2.pa = line ∧ e.2.phase = .hostCopy)) →
       ∃ t, exec (.invAck line) s = .next t ∧ hostShares t line = false ∧ t.wts = s.wts)) ∧
    (hostOwns s line = true → hostHolds s line true = false →
      ∃ t, exec (.wbOwn line bytes) s = .next t ∧ (dirAt t line).st = .uncached ∧
      ∀ i, i < 128 → memByte t.mem (128 * line + i) = bytes.extractLsb' (8 * i) 8) ∧
    (hostOwns s line = false ∨ hostHolds s line true = true → exec (.wbOwn line bytes) s = .next s) ∧
    exec (.recall line) s = .next
      (if ownsHostLine s line = true ∧ line ∉ s.recalls then { s with recalls := s.recalls ++ [line] } else s) ∧
    (∀ (part : Nat) (b : List Byte) (ps : Bool), returnLine s part line b ps =
      sendMsg { s with recalls := s.recalls.filter (fun l => l ≠ line) }
        { link := 0, dnode := 0, code := 0x08, part := part, tag := 0, addr := 128 * line, status := 0, ps := ps,
          payload := b })) ∧
  (∀ (s : State) (h : Hit) (va x y old : Word) (n pa : Nat) (op : AtomicOp) (f : Word → Option Word) (a : Answer),
    let line := lineOf pa
    h.tgt = .host pa → leafCL h.leaf = 0 → answerFor s (128 * line) = some a → a.ask.code = 0x02 → a.denied = false →
    a.ps = false → old = BitVec.ofNat 64 (leNat (listSlice a.bytes (pa % 128) n)) →
    rmw s h va n op x y f = .ok (returnLine (dropHostLine (dropAhead s pa n) line) (curPart s) line
      (match f old with | none => a.bytes | some new => listSet a.bytes (pa % 128) (leBytes n new.toNat)) false, old)) ∧
  (∀ (s : State) (tag : Nat) (bytes : BitVec 1024) (old : BitVec 128) (v : Word) (ps denied : Bool),
    tabGet s.asks tag = none →
    ∀ i ∈ ([.data tag bytes ps, .atomicRsp tag old, .cmp tag denied, .rsp tag bytes denied ps, .ctrWake tag v,
      .transportTimeout tag] : List Instr), exec i s = .next s) ∧
  (∀ (s : State) (tag : Nat) (a : Ask) (bytes : BitVec 1024) (old : BitVec 128) (v : Word) (ps denied : Bool),
    tabGet s.asks tag = some a →
    let b := leBytes 128 bytes.toNat
    let gone : State := { s with asks := tabDel s.asks tag }
    let kept (b : List Byte) (ps denied : Bool) : State :=
      { gone with answers := tabPut s.answers tag ⟨a, b, ps, denied⟩ }
    (a.link = 0 → a.code = 0x02 ∨ a.code = 0x03 → (∀ c, a.who ≠ .fill c) → a.who ≠ .home →
      exec (.data tag bytes ps) s = .next (kept b ps false)) ∧
    (a.link = 0 → a.code = 0x02 → a.who = .home →
      exec (.data tag bytes ps) s = .next (returnLine gone 0 (lineOf a.addr) b ps)) ∧
    (a.link = 0 → a.code = 0x01 → exec (.data tag bytes ps) s = .next (addHostLine
      (match a.who with | .fill _ => gone | .home => gone | _ => kept b ps false) (lineOf a.addr) (a.extra % 4096) (a.extra / 4096) b ps)) ∧
    (∀ k sd, a.who = .seq k sd →
      (a.link = 0 → a.code = 0x0A → exec (.atomicRsp tag old) s = .next (kept (leBytes 16 old.toNat) false false)) ∧
      (a.link = 0 → exec (.cmp tag denied) s = .next (if denied then kept [] false true else s)) ∧
      (a.link ≠ 0 → exec (.rsp tag bytes denied ps) s = .next (kept b ps denied)) ∧
      (a.link ≠ 0 → a.code = 0x05 → exec (.ctrWake tag v) s = .next (kept (leBytes 8 v.toNat) false false))) ∧
    (∀ id, a.who = .wt id →
      (a.link = 0 → a.code = 0x0A → exec (.atomicRsp tag old) s = .next (answerWt gone id false (some (old.truncate 64)))) ∧
      (a.link = 0 → a.code = 0x04 ∨ a.code = 0x0A → exec (.cmp tag denied) s = .next (answerWt gone id denied none)) ∧
      (a.link ≠ 0 → ps = false → exec (.rsp tag bytes denied ps) s =
        .next (answerWt gone id denied (some (bytes.truncate 64))))) ∧
    (s.now < a.sent + 10000000 → exec (.transportTimeout tag) s = .next s) ∧
    (∀ k sd c, a.sent + 10000000 ≤ s.now → a.code ≠ 0x05 → ¬(a.link = 0 ∧ a.code = 0x09) → a.who = .seq k sd →
      tabGet s.ctxs k = some c → exec (.transportTimeout tag) s =
        .next (raiseCtxFault (if a.link = 0 ∧ a.code = 0x02 then
            { s with asks := tabPut s.asks tag { a with who := .home } } else gone)
          k sd ⟨0x12, 0, 0, portInfo a.link, 0, none⟩))) ∧
  (∀ (s : State) (id : Nat) (w : Wt), tabGet s.wts id = some w → w.kind = .store →
    (∀ o, tabGet (answerWt s id false o).wts id = none) ∧
    (∀ o, answerWt s id true o = faultWt s id w (accessDenied w.va.toNat w.elem))) ∧
  (∀ (s : State) (link cls : Nat) (on up : Bool) (m : ClockMsg), link < 9 →
    let l := linkAt s link
    exec (.reservedCodeFrame link) s = .next (setLink s link { l with discarded := l.discarded + 1 }) ∧
    (m.port ∈ s.clockPorts → -500 ≤ m.ppm → m.ppm ≤ 500 → exec (.ieee1588Message m) s = .next { s with rate := m.ppm }) ∧
    (m.port ∉ s.clockPorts ∨ m.ppm < -500 ∨ 500 < m.ppm → exec (.ieee1588Message m) s = .next s) ∧
    (cls = 3 ∨ cls = 4 → ∃ t, exec (.pfcPause link cls on) s = .next t ∧ (linkAt t link).up = l.up ∧
      (∀ c, c ∈ (linkAt t link).paused ↔ (c = cls ∧ on = true) ∨ (c ≠ cls ∧ c ∈ l.paused))) ∧
    (l.up = true → exec (.retransmitTimeout link) s = .next { s with
      out := s.out ++ (l.unacked.filter (fun e => !l.paused.contains (msgClass link e.2.code))).map
        (fun e => frameOf s e.1 e.2) }) ∧
    (l.up = false → exec (.retransmitTimeout link) s = .next s) ∧
    (l.up = up → exec (.portStateChange link up) s = .next s) ∧
    (l.up ≠ up → ∃ t, exec (.portStateChange link up) s = .next t ∧ (linkAt t link).up = up)) ∧
  (∀ (s : State) (m : EdgeModule),
    let k := 8 * m.link + m.module
    let n := tabD s.edgeRetries k 0
    let counts : Prop := m.link < 4 ∧ m.module < 8 ∨ 16 ≤ m.link ∧ m.link < 24 ∧ m.module = 0
    (counts → exec (.linkRetry m false) s = .next { s with edgeRetries := tabDel s.edgeRetries k } ∧
      (n < 3 → exec (.linkRetry m true) s = .next { s with edgeRetries := tabPut s.edgeRetries k (n + 1) }) ∧
      (3 ≤ n → exec (.linkRetry m true) s = .next (failLink { s with edgeRetries := tabDel s.edgeRetries k } m.link))) ∧
    (¬counts → ∀ f, exec (.linkRetry m f) s = .next s)) ∧
  (∀ (s : State) (link : Nat), link < 4 ∨ 16 ≤ link ∧ link < 24 →
    exec (.linkFailure link) s = .next (failLink s link) ∧ link ∈ (failLink s link).edgeDown ∧
    (∀ p q, s.wts = [] → tabGet s.parts p = some q → linkConcerns q link = true →
      (partAt (failLink s link) p).line = true))

/-! ## The device and the schedulers (R71, R90, R162 to R165, R262 to R275, R343 to R385) -/

/-- The package powers on with its images measured, and its node number and time given (log entry 48); partitions are
configured and torn down by PartCfg, each accepted record extending M3; state words, service levels, reports, telemetry and
limits follow their messages and samples; a service level is written once the rails it raises run at their operating points;
a refresh clears the counts of its rows, and back-off and alerts end with their window (R162, R165, R346 to R348, R350, R366 to
R385). That M2 measures the ROM of the bank kernels, which seed and random bytes the signature takes, that a message before the
boot does nothing, and that refresh management leaves the counts that R348 does not name are the model's choices (log entries
83, 17, 2, 49). -/
def Obligations.Device : Prop :=
  (∀ (s : State) (nonce : BitVec 512) (k : Bool) (tag die target occ : Nat) (rec : BitVec 1280) (num : BitVec 12) (v : Word)
      (rd : List Byte) (lev : BitVec 2) (se : BitVec 4) (sn : BitVec 6) (t : Int)
      (fw mc : List Byte) (node : BitVec 11), die < 4 →
    let say (u : State) (p st : Nat) : State := sendMsg u
      { link := 0, dnode := 0, code := 0x0C, part := p, tag := tag, addr := 0, status := st, ps := false, payload := [] }
    let back (code : Nat) (b : List Byte) : Msg :=
      { link := 0, dnode := 0, code := code, part := 0, tag := tag, addr := 0, status := 0, ps := false, payload := b }
    let h := rec.toNat
    let p := bitsOf h 0 4
    (s.booted = false ∨ s.powered = false →
      (∀ i ∈ ([.attReq nonce k tag, .partCfg rec tag, .swWrite num target v tag, .telReq rd tag, .serviceLevelChange lev,
          .throttleSample die se t, .bankBandSample die sn t, .nocClockSample die occ] : List Instr), exec i s = .next s) ∧
      ∃ u, exec (.powerOn fw mc node v) s = .next u ∧ u.booted = true ∧ u.powered = true ∧ u.m0 = measured fw ∧
        u.m1 = measured mc ∧ u.m2 = measured romImage ∧ u.m3 = 0 ∧ u.node = node ∧
        u.now = v.toNat ∧ u.alertWin = v.toNat / 1000000 ∧ u.domain = s.domain ∧ u.routes = s.routes ∧
        u.clockPorts = s.clockPorts ∧ u.svc = 0 ∧ u.mem = [] ∧ u.parts = [] ∧ u.ctxs = []) ∧
    (s.booted = true → s.powered = true →
      exec (.powerOn fw mc node v) s = .next s ∧
      (let r := reportBytes s nonce
       exec (.attReq nonce k tag) s = .next (sendMsg { s with free := s.free + 1 } (back 0x11 (r ++
         signMessage identityKey (leBytes 32 (Config.signRandom s.free).toNat) r ++ (if k then identityKey.pk else []))))) ∧
      (recordReserved h = true → exec (.partCfg rec tag) s = .next (say s p 1)) ∧
      (recordReserved h = false → bitsOf h 4 2 = 1 →
        ((partAt s p).halted = false → exec (.partCfg rec tag) s = .next (say s p 1)) ∧
        ((partAt s p).halted = true → exec (.partCfg rec tag) s = .next (say (tearDown { s with
          m3 := BitVec.ofNat 512 (leNat (sha3512 (leBytes 64 s.m3.toNat ++ leBytes 160 h))) } p) p 0))) ∧
      (recordReserved h = false → bitsOf h 4 2 = 0 → (partAt s p).configured = false → ∀ u x,
        let q0 := partOfRecord h 0
        let w1 := memNat u.mem (q0.evlog.toNat + 8) 8
        let q := { q0 with evcap := bitsOf w1 0 32 }
        let c := firstCluster q
        readyRange false p 0 false q0.root.toNat 128 (readyRange false p 0 false q0.evlog.toNat 64 (s, true)) = (u, true) →
        u.svc = 1 ∨ u.svc = 2 → configOk u p q w1 = true →
        (∀ pa e, rootCounter u p q = (x, .ok (some pa)) → poolEntry u c (rootRec u q).prio = some e →
          exec (.partCfg rec tag) s = .next (say (acceptTask
            (extendM3 (setPart (clearSlots (clearScratchpads x q) q) p q) h) p c (rootRec u q) q.root pa e 0 0) p 0)) ∧
        (rootCounter u p q = (x, .ok none) → exec (.partCfg rec tag) s = .next (say x p 1)) ∧
        (∀ g, rootCounter u p q = (x, .error (.wait g)) → exec (.partCfg rec tag) s = .next (g u))) ∧
      (∀ u, writeManaged s num.toNat target v = some u → exec (.swWrite num target v tag) s = .next (say u 0 0)) ∧
      (writeManaged s num.toNat target v = none → exec (.swWrite num target v tag) s = .next (say s 0 1)) ∧
      (let u := sendMsg s (back 0x18 (telemetry s rd))
       exec (.telReq rd tag) s = .next { u with free := u.free + 1 }) ∧
      (lev.toNat = s.svc.toNat + 1 → lev ≠ 3 →
        let rails := if lev = 1 then [0, 1, 2, 4] else [0, 1, 4]
        ∃ u, exec (.serviceLevelChange lev) s = .next u ∧
          u.svc = (if railsSettled u rails then lev else s.svc) ∧
          ∀ d, d < 4 → ∀ i ∈ rails, ((dieAt u d).rails.getD i Rail.reset).entry = Config.railEntry lev.toNat i) ∧
      (lev = 3 ∨ lev.toNat ≠ s.svc.toNat + 1 → exec (.serviceLevelChange lev) s = .next s) ∧
      (∃ u, exec (.throttleSample die se t) s = .next u ∧ u.powered = decide (t < 1920) ∧
        (dieAt u die).throttle = throttleNext (dieAt s die).throttle t ∧
        (dieAt u die).jband = bandStep junctionEdges (dieAt s die).jband t) ∧
      (∃ u, exec (.bankBandSample die sn t) s = .next u ∧ (dieAt u die).band = bandNext (dieAt s die).band t) ∧
      (s.svc ≠ 0 → ∃ u, exec (.nocClockSample die occ) s = .next u ∧ (dieAt u die).noc = nocNext (dieAt s die).noc occ))) ∧
  (∀ k : Nat, ∀ t : Int, k ≤ 6 → throttleNext k t = if 1760 ≤ t ∧ k < 6 then k + 1 else if t ≤ 1712 ∧ 0 < k then k - 1 else k) ∧
  (∀ (s : State) (bank grp row r stack line slot : Nat) (t0 t1 : Int) (rest : List Nat),
    (bank < 16384 → grp < 4096 → inWave s bank = false → ∃ u, exec (.refresh bank grp) s = .next u ∧ u.mem = s.mem ∧
      tabD u.acts (rowKey bank row) 0 = (if row / 8 = grp then 0 else tabD s.acts (rowKey bank row) 0) ∧
      tabD u.dists (rowKey bank row) 0 = (if row / 8 = grp then 0 else tabD s.dists (rowKey bank row) 0)) ∧
    (bank < 16384 → grp < 4096 → inWave s bank = true → exec (.refresh bank grp) s =
      .next { s with postponed := tabPut s.postponed bank (tabD s.postponed bank [] ++ [grp]) }) ∧
    (stack < 8 → ∃ u, exec (.refreshTempSample stack t0 t1) s = .next u ∧
      (stackAt u stack).hot = (decide (1360 < t0) || decide (1360 < t1)) ∧ (stackAt u stack).prog = (stackAt s stack).prog) ∧
    (tabGet s.pendingRfm bank = some (r :: rest) → inWave s bank = false →
      ∃ u, exec (.refreshManagement bank) s = .next u ∧ tabD u.pendingRfm bank [] = rest ∧ u.acts = s.acts ∧
        u.dists = s.dists) ∧
    (let n := s.now / 1000000
     (n = s.alertWin → exec .alertWindowReset s = .next s) ∧
     (n ≠ s.alertWin → exec .alertWindowReset s = .next { s with alerts := [], backoff := [], alertWin := n })) ∧
    (128 * line < deviceEnd → ∃ u, exec (.patrolScrub line true) s = .next u ∧ line ∈ u.poison ∧ u.mem = s.mem) ∧
    exec (.patrolScrub line false) s = .next s ∧
    exec (.saturationWindowStart slot) s = .next (modSlot s slot (rollWindow s)))

/-- The schedulers' steps: entry into the in-flight window with the dependences of R268, launch times, aging, requests,
dispatch, staging, swaps, spills, completion and the watchdog; an iteration starts with its loop indices, its number and its
argument in x1 to x8 and nothing else live (R71, R83, R90, R268 to R275, R363 to R365). The model's choice in it: an error
in a block read at staging is a fault of the X sequencer (log entry 82), a withdrawn request empties the mirror bank (37), a
task completes once its gang's writes, and the stores its harts had read of others, have performed (39), slots are prepared
for a timed task once its dependences are released (38), and a request keeps the priority its task had (94). -/
def Obligations.Scheduler : Prop :=
  (∀ (s : State) (cluster id : Nat) (t : Task),
    let l := clusterTasks s cluster
    let inside := l.filter (fun e => e.2.entered)
    l.find? (fun e => e.2.rcd.ranged && !e.2.entered) = some (id, t) →
    (64 ≤ inside.length → exec (.windowEntry cluster) s = .next s) ∧
    (partRuns s t.part = true → inside.length < 64 → ∃ u deps, exec (.windowEntry cluster) s = .next u ∧
      taskAt u id = some { t with entered := true, deps := deps } ∧
      ∀ k, k ∈ deps ↔ ∃ e ∈ l, e.1 = k ∧ e.2.entered = true ∧ recsConflict t.rcd e.2.rcd = true)) ∧
  (∀ (s : State) (cluster id slot : Nat) (t : Task), runningTask s cluster id = some t →
    (t.launched = false → t.rcd.launch.toNat ≤ s.now →
      exec (.launchTime cluster id) s = .next (setTask s id { t with launched := true })) ∧
    (s.now < t.rcd.launch.toNat → exec (.launchTime cluster id) s = .next s) ∧
    (t.readyNs < 100000 → exec (.priorityAging cluster id) s = .next s) ∧
    (100000 ≤ t.readyNs → ∃ u, exec (.priorityAging cluster id) s = .next u ∧ taskAt u id =
      some { t with prio := if t.prio = 3 then 3 else t.prio + 1, readyNs := t.readyNs - 100000 }) ∧
    (t.rcd.timed = true → t.launched = false → t.prepared = false → taskReleased s t = true →
      t.rcd.launch.toNat ≤ s.now + 20000 → exec (.timedPrepare cluster id) s =
        .next (prepareSlots id t (min t.rcd.count 192) (setTask s id { t with prepared := true }))) ∧
    (dispatchable s t = true → (∀ n ∈ slotsOf cluster, slotFreeFor s id t n = false) →
      (∀ e ∈ s.slots, ∀ r, e.2.request = some r → r.task ≠ id) → slot ∈ slotsOf cluster → victimOk s id t slot = true →
      (∀ n ∈ slotsOf cluster, victimOk s id t n = true → victimBefore s n slot = false) →
      exec (.preemptionRequest cluster id slot) s = .next (requestSlot s id t slot)) ∧
    (t.addSent = false → taskDone s id t = true →
      (t.rcd.cinc = 0 → ∃ u, exec (.taskComplete cluster id) s = .next u ∧ taskAt u id = none) ∧
      (t.rcd.cinc ≠ 0 → exec (.taskComplete cluster id) s = .next (wakeWaiters (performWt (bumpIds
        { setTask s id { t with addSent := true } with wts := tabPut s.wts s.ids (completionAdd id t) }) s.ids)))) ∧
    (taskDone s id t = false → exec (.taskComplete cluster id) s = .next s)) ∧
  (∀ (s : State) (slot p : Nat), slot < 3072 → partOfCluster s (clusterOfSlot slot) = some p → partRuns s p = true →
    let l := slotAt s slot
    let core := coreOfSlot slot
    let put (m : Mirror) (u : State) : State := modSlot u slot (fun l => { l with mirror := m })
    (∀ r t, l.mirror = .empty → l.request = some r → taskAt s r.task = some t →
      exec (.stagingComplete slot) s = .next (put (.staging (.new r.task 0 t.rcd.slices)) s)) ∧
    (l.mirror = .empty → l.request = none →
      (∀ id t first n m, l.ctx = none → pickWork s slot none = some (.new id m n) → taskAt s id = some t →
        groupFor s core n none = some first →
        exec (.dispatch slot) s = .next (withdrawAfter (startIteration s id t slot first) id)) ∧
      (∀ k, l.ctx = none → pickWork s slot none = some (.ctx k) →
        exec (.dispatch slot) s = .next (put (.staging (.ctx k)) s)) ∧
      (∀ k w, l.ctx = some k → atWaitBoundary s k (ctxAt s k) = true → pickWork s slot (some k) = some w →
        exec (.dispatch slot) s = .next (put (.staging w) s))) ∧
    (∀ k first u, l.mirror = .staging (.ctx k) → groupFor s core (ctxAt s k).slices none = some first →
      readyRange false p core false (ctxBlock s k) (ctxBytes (ctxAt s k).slices) (s, true) = (u, true) →
      let v := modCtx (restoreCtx u k) k (fun c => { c with place := .mirror slot, first := first })
      exec (.stagingComplete slot) s = .next (blockError (put (.staged (.ctx k)) v) k .x (blockRanges v k))) ∧
    (∀ id t first n m, l.mirror = .staging (.new id m n) → stagedTask s slot id = some t →
      groupFor s core n l.ctx = some first → exec (.stagingComplete slot) s = .next (put (.staged (.new id first n)) s)) ∧
    (∀ k, l.mirror = .staged (.ctx k) →
      (l.ctx = none → exec (.swap slot) s = .next (swapIn (put .empty s) slot k)) ∧
      (∀ j, l.ctx = some j → mayLeave s slot j = true → exec (.swap slot) s = .next (swapIn (swapOut s slot j (.ctx k)) slot k)) ∧
      (∀ j, l.ctx = some j → mayLeave s slot j = false → exec (.swap slot) s = .next s)) ∧
    (∀ id t first n, l.mirror = .staged (.new id first n) → l.ctx = none → stagedTask s slot id = some t →
      mayEnter s slot (.new id first n) = true →
      exec (.swap slot) s = .next (enter (put .empty s) slot (.new id first n)))) ∧
  (∀ (s u : State) (slot k : Nat), (slotAt s slot).mirror = .spilling k → (partAt s (ctxAt s k).part).halted = false →
    readyRange false (ctxAt s k).part (ctxAt s k).core true (ctxBlock s k) (ctxBytes (ctxAt s k).slices) (s, true) = (u, true) →
      exec (.spillComplete slot) s = .next (modSlot (modCtx (saveCtx u k) k (fun c => { c with place := .out })) slot (fun l => { l with mirror := .empty }))) ∧
  (∀ (s : State) (slot k : Nat), (slotAt s slot).ctx = some k →
    let l := slotAt s slot
    let c := ctxAt s k
    let sd : Side := if c.x.status = .done then .a else .x
    (l.wdogCount ≤ l.wdogLimit → exec (.iterationWatchdog slot) s = .next s) ∧
    (l.wdogLimit ≠ 0 → l.wdogLimit < l.wdogCount → (partAt s c.part).halted = false → atWaitBoundary s k c = false →
      (seqOf c sd).status ≠ .faulted → (∀ f, c.fault = some f → f.code ≠ 0x0F) → exec (.iterationWatchdog slot) s =
        .next (raiseCtxFault s k sd ⟨0x0F, 0, BitVec.ofNat 64 l.wdogCount, 0, 0, none⟩))) ∧
  (∀ (s : State) (id slot key first : Nat) (t : Task) (i : BitVec 5),
    let c := newCtx s id t slot key first
    c.x.pc = t.rcd.xentry ∧ c.a.pc = t.rcd.aentry ∧ (c.a.status = .idle ↔ t.rcd.aentry = 0) ∧ c.x.status = .running ∧
    ∀ q ∈ [c.a, c.x], q.loops = [] ∧ q.fences = [] ∧ xRead q i =
      if i = 0 ∨ 8 < i then 0 else if i = 7 then BitVec.ofNat 64 t.dispatched else if i = 8 then t.rcd.args
      else (walk t.rcd t.dispatched).getD (i.toNat - 1) 0)

/-- While a partition is halted its sequencers issue nothing. A halt aborts the kernel commands between waves, and completes
once the partition is quiet: the next state has every record of its stop table written, of its contexts, of its clusters'
detached faults and zero for the rest, it is halted, and the host is notified. A HaltRelease checks the records; in its next
state the partition runs again, and a sequencer that stood at a fault runs at the rpc of its record (R353 to R362). That a
HaltRelease to a partition that has not halted is answered with status 1, that one whose blocks wait at their homes is served
later, and that the halt passes over a record which a failed link cuts off are the model's choices (log entries 45, 2, 32). -/
def Obligations.Halt : Prop :=
  (∀ (s : State) (slot : BitVec 12) (sd : Side) (rest : List Turn) (k : Nat), s.powered = true →
    s.agenda = .seq slot sd :: rest → (slotAt s slot.toNat).ctx = some k → (partAt s (ctxAt s k).part).halted = true →
    step s = .next { s with agenda := rest }) ∧
  (∀ (s : State) (part : BitVec 4),
    let p := part.toNat
    let q := partAt s p
    let r := blocksReady true s p
    let v := savedState r.1 p
    let record (t : State) (n : Nat) : List Byte := memRead t.mem ((partAt v p).stbase.toNat + 256 * n) 256
    (q.line = false ∨ q.halted = true → exec (.haltComplete part) s = .next s) ∧
    (q.configured = true → q.line = true → q.halted = false → s.bankCmds.any (haltAborts s p) = true →
      exec (.haltComplete part) s = .next (abortBanks s p)) ∧
    (partQuiet s p = false → s.bankCmds.any (haltAborts s p) = false → exec (.haltComplete part) s = .next s) ∧
    (q.configured = true → q.line = true → q.halted = false → partQuiet s p = true → r.2 = false →
      exec (.haltComplete part) s = .next r.1) ∧
    (q.configured = true → q.line = true → q.halted = false → partQuiet s p = true → r.2 = true →
      tabWf v.ctxs → (∀ e ∈ v.ctxs, e.1 < 16384) → tabWf v.detached → (∀ e ∈ v.detached, e.1 < 16) →
      ∃ t, exec (.haltComplete part) s = .next (sendMsg t (haltNote r.1 p)) ∧ (partAt t p).halted = true ∧
        t.ctxs = v.ctxs ∧ (∀ n, n ≠ p → partAt t n = partAt v n) ∧
        (∀ k c, tabGet v.ctxs k = some c → c.part = p → recordCut v p k = false →
          record t k = leBytes 256 (ctxRecord p c)) ∧
        (∀ n d, tabGet v.detached n = some d → (partAt v p).clus.getLsbD n = true → recordCut v p (16384 + n) = false →
          record t (16384 + n) = leBytes 256 (detachedRecord p d)) ∧
        (∀ k, k < 16384 → (partAt v p).clus.getLsbD (k / 1024) = true → (∀ c, tabGet v.ctxs k = some c → c.part ≠ p) →
          recordCut v p k = false →
          record t k = leBytes 256 0) ∧
        (∀ n, n < 16 → (partAt v p).clus.getLsbD n = true → tabGet v.detached n = none →
          recordCut v p (16384 + n) = false →
          record t (16384 + n) = leBytes 256 0))) ∧
  (∀ (s : State) (part : BitVec 4) (tag : Nat), s.powered = true →
    let p := part.toNat
    let r := blocksReady false s p
    let u := r.1
    let v := restoredState u p
    let say (t : State) (st : Nat) : State :=
      sendMsg t { link := 0, dnode := 0, code := 0x0C, part := p, tag := tag, addr := 0, status := st, ps := false, payload := [] }
    ((partAt s p).halted = false → exec (.haltRelease part tag) s = .next (say s 1)) ∧
    ((partAt s p).halted = true → r.2 = false → exec (.haltRelease part tag) s = .next u) ∧
    ((partAt s p).halted = true → r.2 = true → (∃ e ∈ partFaults u p, recordOk u p e.1 e.2 = false) →
      exec (.haltRelease part tag) s = .next (say u 1)) ∧
    ((partAt s p).halted = true → r.2 = true → (∀ e ∈ partFaults u p, recordOk u p e.1 e.2 = true) →
      exec (.haltRelease part tag) s = .next (say (releasedState u p) 0) ∧ (partAt (releasedState u p) p).halted = false) ∧
    (∀ key f, (partAt s p).halted = true → r.2 = true → (∀ e ∈ partFaults u p, recordOk u p e.1 e.2 = true) →
      u.poison = [] → (∀ e ∈ u.dir, isFaceted e.2 = false) → (∀ e ∈ u.cmds, e.2.issuer.part = p → e.2.faulted = false) →
      (∀ e ∈ u.bankCmds, e.2.issuer.part = p → e.2.faulted = false) →
      (∀ e ∈ u.wts, e.2.part = p → e.2.phase ≠ .stopped) →
      tabWf u.ctxs → (ctxAt u key).part = p → (ctxAt u key).fault = some f → f.e = false → recordF u p key = true →
      (seqOf (ctxAt v key) f.sq).status = .faulted →
      ∃ t, exec (.haltRelease part tag) s = .next t ∧ (seqOf (ctxAt t key) f.sq).status = .running ∧
        (seqOf (ctxAt t key) f.sq).pc = recordRpc u p key ∧ (seqOf (ctxAt t key) f.sq).x = (seqOf (ctxAt v key) f.sq).x ∧
        (seqOf (ctxAt t key) f.sq).loops = (seqOf (ctxAt v key) f.sq).loops)) ∧
  (∀ (q : Seq) (rpc : Word) (again : Bool),
    (q.status = .faulted → (resumeSeq q (some rpc) again).status = .running ∧ (resumeSeq q (some rpc) again).pc = rpc) ∧
    (resumeSeq q (some rpc) again).x = q.x ∧ (resumeSeq q (some rpc) again).loops = q.loops ∧
    (resumeSeq q none again).pc = q.pc ∧
    (q.status ≠ .faulted → (resumeSeq q none again).status = if again then issuesAgain q.status else q.status)) ∧
  (∀ w : WaitKind, issuesAgain (.waiting w) = match w with
    | .satisfied o => .waiting (.satisfied o)
    | _ => .running)
end

