-- ==== Sys2Proof/Laws/Decode.lean ====
section
/-!
SUPPORT. The pieces of decoding and encoding undo each other: the specifier byte, the fields of a word.
-/

namespace Sys2Proof.Laws

open Sys2Proof

/-- A specifier that is not misfiled as reserved is read back from its byte. -/
theorem specOf_specByte (sp : Spec) (h : sp.ok = true) : specOf (specByte sp) = sp := by
  cases sp with
  | x l i => revert l i; decide
  | o i => revert i; decide
  | l i => revert i; decide
  | q i => revert i; decide
  | k i => revert i; decide
  | w i => revert i; decide
  | acc i => revert i; decide
  | bq => decide
  | m => decide
  | v i => revert i; decide
  | t i => revert i; decide
  | imm v => revert v; decide
  | reserved b => revert b; decide +kernel

theorem specByte_specOf (b : BitVec 8) : specByte (specOf b) = b := by revert b; decide +kernel

theorem specOf_ok (b : BitVec 8) : (specOf b).ok = true := by revert b; decide +kernel

/-- Slicing a joined pair. -/
theorem slice_high {m n : Nat} (a : BitVec m) (b : BitVec n) : (a ++ b).extractLsb' n m = a := by
  ext i hi
  simp [BitVec.getLsbD_append, hi]

theorem slice_low {m n : Nat} (a : BitVec m) (b : BitVec n) : (a ++ b).extractLsb' 0 n = b := by
  ext i hi
  simp [BitVec.getLsbD_append, hi]

theorem rawOf_rawWord (r : Raw) : rawOf (rawWord r) = r := by
  obtain ⟨op, fn, d, a, b, c, m⟩ := r
  simp only [rawOf, rawWord, Raw.mk.injEq]
  refine ⟨?_, ?_, ?_, ?_, ?_, ?_, ?_⟩ <;> ext i hi <;>
    simp only [BitVec.getElem_extractLsb', BitVec.getLsbD_append] <;>
    (repeat' first | rw [if_pos (by omega)] | rw [if_neg (by omega)]) <;>
    rw [BitVec.getLsbD_eq_getElem (by omega)] <;> congr 1 <;> omega

theorem rawWord_rawOf (w : Word) : rawWord (rawOf w) = w := by
  have h (i n m : Nat) : w.extractLsb' (i + n) m ++ w.extractLsb' i n = w.extractLsb' i (m + n) :=
    BitVec.extractLsb'_append_extractLsb'_eq_extractLsb' rfl
  change ((((((w.extractLsb' (48 + 8) 8 ++ w.extractLsb' (40 + 8) 8) ++ w.extractLsb' (32 + 8) 8) ++
    w.extractLsb' (24 + 8) 8) ++ w.extractLsb' (16 + 8) 8) ++ w.extractLsb' (0 + 16) 8) ++ w.extractLsb' 0 16 : BitVec 64) = w
  rw [h 48 8 8, h 40 8 (8 + 8), h 32 8 (8 + 8 + 8), h 24 8 (8 + 8 + 8 + 8), h 16 8 (8 + 8 + 8 + 8 + 8),
    h 0 16 (8 + 8 + 8 + 8 + 8 + 8)]
  exact BitVec.extractLsb'_eq_self

end Sys2Proof.Laws
end

