-- ==== Sys2Proof/Laws/Gate.lean ====
section
/-!
SUPPORT. What the operand gate answers when every operand is ready, and the shape of an outcome.
-/

namespace Sys2Proof.Laws

open Sys2Proof Sys2Proof.Machine

theorem okRes_unit (r : Res Unit) (h : okRes r = true) : r = .ok () := by
  cases r with
  | ok v => rfl
  | error e => simp [okRes] at h

theorem okRes_iff {α : Type} (r : Res α) : okRes r = true ↔ ∃ v, r = .ok v := by
  cases r <;> simp [okRes]

/-- The gate opens: every pop and last-use mark is done, and the values are those of the operands. -/
theorem gateWith_ready (s : State) (ops : List Opnd) (f : Res Unit) (h : operandsReady s ops = true)
    (hf : okRes f = true) :
    gateWith s ops f = .ok (afterReads s ops, srcValues (curCtx s) (curSeq s) [] ops) := by
  simp only [operandsReady, Bool.and_eq_true] at h
  obtain ⟨⟨⟨⟨h1, h2⟩, h3⟩, h4⟩, h5⟩ := h
  have e1 := okRes_unit _ h1
  have e2 := okRes_unit _ h2
  have ef := okRes_unit _ hf
  rw [Option.isNone_iff_eq_none] at h5
  unfold gateWith
  simp only [bind, Except.bind, e1, e2, ef, h3, h4, h5, if_true, pure, Except.pure]
  rfl

theorem gate_ready (s : State) (ops : List Opnd) (h : operandsReady s ops = true) :
    gate s ops = .ok (afterReads s ops, srcValues (curCtx s) (curSeq s) [] ops) :=
  gateWith_ready s ops (.ok ()) h rfl

/-- The operands are ready and a field of the word is wrong: the fault of the field. -/
theorem gateWith_fields (s : State) (ops : List Opnd) (e : Stop) (h : operandsReady s ops = true) :
    gateWith s ops (.error e) = .error e := by
  simp only [operandsReady, Bool.and_eq_true] at h
  obtain ⟨⟨⟨⟨h1, h2⟩, h3⟩, h4⟩, h5⟩ := h
  have e1 := okRes_unit _ h1
  unfold gateWith
  simp only [bind, Except.bind, e1]

@[simp] theorem finish_ok (s t : State) : finish s (.ok t) = .next t := rfl
@[simp] theorem finish_fault (s : State) (f : FaultReq) : finish s (.error (.fault f)) = .next (raiseFault s f) := rfl
@[simp] theorem finish_walkFault (s : State) (f : FaultReq) (g : State → State) :
    finish s (.error (.walkFault f g)) = .next (raiseFault (g s) f) := rfl
@[simp] theorem finish_wait (s : State) (g : State → State) : finish s (.error (.wait g)) = .next (leaveBound (g (plainWait s))) := rfl
@[simp] theorem finish_stall (s t : State) : finish s (.error (.stall t)) = .next t := rfl

@[simp] theorem need_true (e : Res Unit) : need true e = .ok () := rfl
@[simp] theorem need_false (e : Res Unit) : need false e = e := rfl

end Sys2Proof.Laws
end

