-- ==== Sys2Proof/Laws/Tab.lean ====
section
/-!
SUPPORT. Tables and memory: reading after writing, what a write leaves alone, and that every operation keeps the rising
order of a table and the canonical form of memory.
-/

namespace Sys2Proof.Laws

open Sys2Proof Sys2Proof.Machine

/-! ### Reading -/

theorem tabGet_tabDel {α : Type} (t : Tab α) (k j : Nat) :
    tabGet (tabDel t k) j = if j = k then none else tabGet t j := by
  induction t with
  | nil => simp [tabDel, tabGet]
  | cons e r ih =>
    obtain ⟨i, w⟩ := e
    unfold tabDel at ih ⊢
    by_cases hi : i = k
    · rw [List.filter_cons_of_neg (by simpa using hi), ih]
      by_cases hj : j = k
      · simp [hj]
      · simp [hj, tabGet, hi, Ne.symm hj]
    · rw [List.filter_cons_of_pos (by simpa using hi)]
      unfold tabGet
      by_cases hij : i = j
      · simp [hij, hij ▸ hi]
      · rw [if_neg hij, if_neg hij, ih]

theorem tabGet_tabIns {α : Type} (t : Tab α) (k j : Nat) (v : α) (h : tabGet t k = none) :
    tabGet (tabIns t k v) j = if j = k then some v else tabGet t j := by
  induction t with
  | nil => by_cases hj : j = k
           · simp [tabIns, tabGet, hj]
           · simp [tabIns, tabGet, hj, Ne.symm hj]
  | cons e r ih =>
    obtain ⟨i, w⟩ := e
    by_cases hi : i = k
    · simp [tabGet, hi] at h
    · have hr : tabGet r k = none := by simpa [tabGet, hi] using h
      unfold tabIns
      split
      · by_cases hj : j = k
        · simp [tabGet, hj]
        · simp [tabGet, hj, Ne.symm hj]
      · by_cases hij : i = j
        · simp [tabGet, hij, hij ▸ hi]
        · simp [tabGet, hij, ih hr]

/-- A table answers what was put there last. -/
theorem tabGet_tabPut {α : Type} (t : Tab α) (k j : Nat) (v : α) :
    tabGet (tabPut t k v) j = if j = k then some v else tabGet t j := by
  unfold tabPut
  rw [tabGet_tabIns _ _ _ _ (by simp [tabGet_tabDel]), tabGet_tabDel]
  by_cases h : j = k <;> simp [h]

@[simp] theorem tabGet_tabPut_same {α : Type} (t : Tab α) (k : Nat) (v : α) : tabGet (tabPut t k v) k = some v := by
  simp [tabGet_tabPut]

theorem tabGet_tabPut_other {α : Type} (t : Tab α) (k j : Nat) (v : α) (h : j ≠ k) :
    tabGet (tabPut t k v) j = tabGet t j := by simp [tabGet_tabPut, h]

@[simp] theorem tabD_tabPut_same {α : Type} (t : Tab α) (k : Nat) (v d : α) : tabD (tabPut t k v) k d = v := by
  simp [tabD]

theorem tabD_tabPut_other {α : Type} (t : Tab α) (k j : Nat) (v d : α) (h : j ≠ k) :
    tabD (tabPut t k v) j d = tabD t j d := by simp [tabD, tabGet_tabPut_other t k j v h]

/-! ### Entries -/

theorem mem_tabDel {α : Type} (t : Tab α) (k : Nat) (e : Nat × α) : e ∈ tabDel t k ↔ e ∈ t ∧ e.1 ≠ k := by
  simp [tabDel]

theorem mem_tabIns {α : Type} (t : Tab α) (k : Nat) (v : α) (e : Nat × α) : e ∈ tabIns t k v ↔ e = (k, v) ∨ e ∈ t := by
  induction t with
  | nil => simp [tabIns]
  | cons f r ih =>
    obtain ⟨i, w⟩ := f
    unfold tabIns
    split
    · simp
    · simp only [List.mem_cons, ih]; tauto

theorem mem_tabPut {α : Type} (t : Tab α) (k : Nat) (v : α) (e : Nat × α) :
    e ∈ tabPut t k v ↔ e = (k, v) ∨ (e ∈ t ∧ e.1 ≠ k) := by simp [tabPut, mem_tabIns, mem_tabDel]

theorem mem_of_tabGet {α : Type} (t : Tab α) (k : Nat) (v : α) (h : tabGet t k = some v) : (k, v) ∈ t := by
  induction t with
  | nil => simp [tabGet] at h
  | cons e r ih =>
    obtain ⟨i, w⟩ := e
    unfold tabGet at h
    split at h
    · rename_i hi; subst hi; injection h with h; subst h; simp
    · exact List.mem_cons_of_mem _ (ih h)

/-- A property of every entry is one of what a table answers, the default apart. -/
theorem tabD_property {α : Type} (p : α → Prop) (t : Tab α) (k : Nat) (d : α) (h : ∀ e ∈ t, p e.2) (hd : p d) :
    p (tabD t k d) := by
  unfold tabD
  cases hg : tabGet t k with
  | none => exact hd
  | some v => exact h _ (mem_of_tabGet t k v hg)

theorem tabPut_property {α : Type} (p : α → Prop) (t : Tab α) (k : Nat) (v : α) (h : ∀ e ∈ t, p e.2) (hv : p v) :
    ∀ e ∈ tabPut t k v, p e.2 := by
  intro e he
  rcases (mem_tabPut t k v e).mp he with rfl | ⟨he, -⟩
  · exact hv
  · exact h e he

/-! ### Order -/

theorem tabWf_tabDel {α : Type} (t : Tab α) (k : Nat) (h : tabWf t) : tabWf (tabDel t k) := by
  unfold tabWf tabDel at *
  exact h.sublist ((List.filter_sublist (l := t)).map Prod.fst)

theorem tabWf_tabIns {α : Type} (t : Tab α) (k : Nat) (v : α) (h : tabWf t) (hk : ∀ e ∈ t, e.1 ≠ k) :
    tabWf (tabIns t k v) := by
  induction t with
  | nil => simp [tabIns, tabWf]
  | cons e r ih =>
    obtain ⟨i, w⟩ := e
    have hr : tabWf r := (List.pairwise_cons.mp h).2
    have hi : ∀ e ∈ r, i < e.1 := by
      intro e he
      exact (List.pairwise_cons.mp h).1 e.1 (List.mem_map_of_mem he)
    unfold tabIns
    split
    · rename_i hlt
      refine List.pairwise_cons.mpr ⟨?_, h⟩
      intro a ha
      rcases List.mem_map.mp ha with ⟨e, he, rfl⟩
      rcases List.mem_cons.mp he with rfl | he
      · exact hlt
      · exact lt_trans hlt (hi e he)
    · rename_i hlt
      refine List.pairwise_cons.mpr ⟨?_, ih hr (fun e he => hk e (List.mem_cons_of_mem _ he))⟩
      intro a ha
      rcases List.mem_map.mp ha with ⟨e, he, rfl⟩
      rcases (mem_tabIns r k v e).mp he with rfl | he
      · have := hk (i, w) (List.mem_cons_self ..); dsimp at this ⊢; omega
      · exact hi e he

theorem tabWf_tabPut {α : Type} (t : Tab α) (k : Nat) (v : α) (h : tabWf t) : tabWf (tabPut t k v) :=
  tabWf_tabIns _ _ _ (tabWf_tabDel t k h) (fun e he => ((mem_tabDel t k e).mp he).2)

theorem tabWf_filter {α : Type} (t : Tab α) (p : Nat × α → Bool) (h : tabWf t) : tabWf (t.filter p) := by
  unfold tabWf at *
  exact h.sublist ((List.filter_sublist (l := t)).map Prod.fst)

/-! ### Memory -/

theorem memByte_memSet (m : List Host.Cell) (a b : Nat) (v : Byte) :
    memByte (memSet m a v) b = if b = a then v else memByte m b := by
  unfold memByte memSet tabD
  by_cases hv : v = 0
  · rw [if_pos hv, tabGet_tabDel]
    by_cases h : b = a <;> simp [h, hv]
  · rw [if_neg hv, tabGet_tabPut]
    by_cases h : b = a <;> simp [h]

/-- A byte of memory after a run of bytes is written: the byte of the run that fell there, else what was there before. -/
theorem memByte_memWrite (m : List Host.Cell) (a b : Nat) (l : List Byte) :
    memByte (memWrite m a l) b = if a ≤ b ∧ b < a + l.length then l.getD (b - a) 0 else memByte m b := by
  induction l generalizing m a with
  | nil => simp [memWrite]
  | cons v r ih =>
    rw [memWrite, ih, memByte_memSet]
    by_cases h1 : b = a
    · subst h1; simp
    · by_cases h2 : a + 1 ≤ b ∧ b < a + 1 + r.length
      · have h3 : a ≤ b ∧ b < a + (v :: r).length := by simp only [List.length_cons]; omega
        rw [if_pos h2, if_pos h3]
        obtain ⟨n, hn⟩ : ∃ n, b - a = n + 1 := ⟨b - a - 1, by omega⟩
        rw [hn, List.getD_cons_succ]
        congr 1; omega
      · have h3 : ¬(a ≤ b ∧ b < a + (v :: r).length) := by simp only [List.length_cons]; omega
        rw [if_neg h2, if_neg h3, if_neg h1]

theorem memByte_memWrite_outside (m : List Host.Cell) (a b : Nat) (l : List Byte) (h : b < a ∨ a + l.length ≤ b) :
    memByte (memWrite m a l) b = memByte m b := by
  rw [memByte_memWrite, if_neg (by omega)]

theorem memRead_length (m : List Host.Cell) (a n : Nat) : (memRead m a n).length = n := by simp [memRead]

/-- What was written is read back. -/
theorem memRead_memWrite (m : List Host.Cell) (a : Nat) (l : List Byte) : memRead (memWrite m a l) a l.length = l := by
  apply List.ext_getElem
  · simp [memRead]
  · intro i h1 h2
    simp only [memRead, List.getElem_map, List.getElem_range, memByte_memWrite]
    rw [if_pos (by omega), show a + i - a = i by omega, List.getD_eq_getElem _ _ h2]

theorem memWf_memSet (m : List Host.Cell) (a : Nat) (v : Byte) (h : Memory.wf m) : Memory.wf (memSet m a v) := by
  unfold memSet
  split
  · exact ⟨tabWf_tabDel m a h.1, fun c hc => h.2 c ((mem_tabDel m a c).mp hc).1⟩
  · rename_i hv
    refine ⟨tabWf_tabPut m a v h.1, fun c hc => ?_⟩
    rcases (mem_tabPut m a v c).mp hc with rfl | ⟨hc, -⟩
    · exact hv
    · exact h.2 c hc

/-- Every write keeps the canonical form of memory. -/
theorem memWf_memWrite (m : List Host.Cell) (a : Nat) (l : List Byte) (h : Memory.wf m) : Memory.wf (memWrite m a l) := by
  induction l generalizing m a with
  | nil => exact h
  | cons v r ih => exact ih _ _ (memWf_memSet m a v h)

theorem memWf_reset : Memory.wf State.reset.mem := ⟨List.Pairwise.nil, fun _ h => by cases h⟩

/-- Two memories in canonical form that read alike are equal data. -/
theorem tabGet_of_mem {α : Type} (t : Tab α) (h : tabWf t) (e : Nat × α) (he : e ∈ t) : tabGet t e.1 = some e.2 := by
  induction t with
  | nil => cases he
  | cons f r ih =>
    obtain ⟨i, w⟩ := f
    have hr := List.pairwise_cons.mp h
    rcases List.mem_cons.mp he with rfl | he'
    · simp [tabGet]
    · have : i < e.1 := hr.1 e.1 (List.mem_map_of_mem he')
      unfold tabGet
      rw [if_neg (by omega)]
      exact ih hr.2 he'

/-! ### Numbers in bytes -/

theorem leBytes_length (n v : Nat) : (leBytes n v).length = n := by
  induction n generalizing v with
  | zero => rfl
  | succ n ih => simp [leBytes, ih]

theorem leNat_leBytes (n v : Nat) : leNat (leBytes n v) = v % 256 ^ n := by
  induction n generalizing v with
  | zero => simp [leBytes, leNat, Nat.mod_one]
  | succ n ih =>
    have h : 256 ^ (n + 1) = 256 * 256 ^ n := by rw [Nat.pow_succ, Nat.mul_comm]
    rw [leBytes, leNat, ih, BitVec.toNat_ofNat, h, Nat.mod_mul]

end Sys2Proof.Laws
end

