-- ==== Sys2Proof/Laws/Sets.lean ====
section
/-!
SUPPORT. The sets of the caches never touch the bytes of memory: what a write to memory, and a write at a line's home, leave
there.
-/

namespace Sys2Proof.Laws

open Sys2Proof Sys2Proof.Machine

@[simp] theorem dropLine_mem (s : State) (cache line : Nat) : (dropLine s cache line).mem = s.mem := by
  unfold dropLine setCopies; dsimp only; split <;> rfl

@[simp] theorem makeRoom_mem (cache prio n k : Nat) (s : State) (l : List CLine) :
    (makeRoom cache prio n k s l).1.mem = s.mem := by
  induction k generalizing s l with
  | zero => rfl
  | succ k ih =>
    unfold makeRoom
    split
    · rfl
    · split
      · rfl
      · rw [ih, dropLine_mem]

@[simp] theorem placeLine_mem (s : State) (cache : Nat) (e : CLine) (l : List CLine) :
    (placeLine s cache e l).mem = s.mem := by simp [placeLine]

@[simp] theorem touchLine_mem (s : State) (cache line : Nat) : (touchLine s cache line).mem = s.mem := by
  unfold touchLine; dsimp only; split <;> rfl

@[simp] theorem allocLine_mem (s : State) (cache line prio : Nat) (cmp : Bool) :
    (allocLine s cache line prio cmp).mem = s.mem := by
  unfold allocLine; dsimp only; split
  · simp
  · rw [placeLine_mem]

@[simp] theorem useSlice_mem (s : State) (line : Nat) (a : Option Nat) (cmp : Bool) :
    (useSlice s line a cmp).mem = s.mem := by
  unfold useSlice; split <;> simp

@[simp] theorem refitLine_mem (old s : State) (line : Nat) : (refitLine old s line).mem = s.mem := by
  unfold refitLine; dsimp only; split
  · rfl
  · split
    · rw [placeLine_mem]; split <;> rfl
    · dsimp only; split <;> rfl

theorem refitLines_mem (old : State) (l : List Nat) (s : State) : (l.foldl (refitLine old) s).mem = s.mem := by
  induction l generalizing s with
  | nil => rfl
  | cons a l ih => rw [List.foldl_cons, ih, refitLine_mem]

/-- A write to memory is `memWrite`, whatever the slices hold. -/
@[simp] theorem writeMem_mem (s : State) (pa : Nat) (b : List Byte) : (writeMem s pa b).mem = memWrite s.mem pa b := by
  simp [writeMem, refitLines_mem]

/-- A write to memory keeps its canonical form. -/
theorem writeMem_wf (s : State) (pa : Nat) (b : List Byte) (h : Memory.wf s.mem) : Memory.wf (writeMem s pa b).mem := by
  rw [writeMem_mem]; exact memWf_memWrite _ _ _ h

end Sys2Proof.Laws
end

