-- ==== Sys2Proof/Laws/State.lean ====
section
/-!
SUPPORT. One lemma per field per update: what the shared updates of a state, a context and a sequencer leave alone, and
what they write.
-/

namespace Sys2Proof.Laws

open Sys2Proof Sys2Proof.Machine

/-! ### `setCtx` -/

@[simp] theorem setCtx_booted (s : State) (k : Nat) (v : Ctx) : (setCtx s k v).booted = s.booted := rfl
@[simp] theorem setCtx_powered (s : State) (k : Nat) (v : Ctx) : (setCtx s k v).powered = s.powered := rfl
@[simp] theorem setCtx_now (s : State) (k : Nat) (v : Ctx) : (setCtx s k v).now = s.now := rfl
@[simp] theorem setCtx_rate (s : State) (k : Nat) (v : Ctx) : (setCtx s k v).rate = s.rate := rfl
@[simp] theorem setCtx_svc (s : State) (k : Nat) (v : Ctx) : (setCtx s k v).svc = s.svc := rfl
@[simp] theorem setCtx_actalert (s : State) (k : Nat) (v : Ctx) : (setCtx s k v).actalert = s.actalert := rfl
@[simp] theorem setCtx_actmgmt (s : State) (k : Nat) (v : Ctx) : (setCtx s k v).actmgmt = s.actmgmt := rfl
@[simp] theorem setCtx_node (s : State) (k : Nat) (v : Ctx) : (setCtx s k v).node = s.node := rfl
@[simp] theorem setCtx_domain (s : State) (k : Nat) (v : Ctx) : (setCtx s k v).domain = s.domain := rfl
@[simp] theorem setCtx_routes (s : State) (k : Nat) (v : Ctx) : (setCtx s k v).routes = s.routes := rfl
@[simp] theorem setCtx_m0 (s : State) (k : Nat) (v : Ctx) : (setCtx s k v).m0 = s.m0 := rfl
@[simp] theorem setCtx_m1 (s : State) (k : Nat) (v : Ctx) : (setCtx s k v).m1 = s.m1 := rfl
@[simp] theorem setCtx_m2 (s : State) (k : Nat) (v : Ctx) : (setCtx s k v).m2 = s.m2 := rfl
@[simp] theorem setCtx_m3 (s : State) (k : Nat) (v : Ctx) : (setCtx s k v).m3 = s.m3 := rfl
@[simp] theorem setCtx_mem (s : State) (k : Nat) (v : Ctx) : (setCtx s k v).mem = s.mem := rfl
@[simp] theorem setCtx_poison (s : State) (k : Nat) (v : Ctx) : (setCtx s k v).poison = s.poison := rfl
@[simp] theorem setCtx_copies (s : State) (k : Nat) (v : Ctx) : (setCtx s k v).copies = s.copies := rfl
@[simp] theorem setCtx_sets (s : State) (k : Nat) (v : Ctx) : (setCtx s k v).sets = s.sets := rfl
@[simp] theorem setCtx_notices (s : State) (k : Nat) (v : Ctx) : (setCtx s k v).notices = s.notices := rfl
@[simp] theorem setCtx_partials (s : State) (k : Nat) (v : Ctx) : (setCtx s k v).partials = s.partials := rfl
@[simp] theorem setCtx_dir (s : State) (k : Nat) (v : Ctx) : (setCtx s k v).dir = s.dir := rfl
@[simp] theorem setCtx_wts (s : State) (k : Nat) (v : Ctx) : (setCtx s k v).wts = s.wts := rfl
@[simp] theorem setCtx_hostdir (s : State) (k : Nat) (v : Ctx) : (setCtx s k v).hostdir = s.hostdir := rfl
@[simp] theorem setCtx_asks (s : State) (k : Nat) (v : Ctx) : (setCtx s k v).asks = s.asks := rfl
@[simp] theorem setCtx_answers (s : State) (k : Nat) (v : Ctx) : (setCtx s k v).answers = s.answers := rfl
@[simp] theorem setCtx_bankWaits (s : State) (k : Nat) (v : Ctx) : (setCtx s k v).bankWaits = s.bankWaits := rfl
@[simp] theorem setCtx_clockPorts (s : State) (k : Nat) (v : Ctx) : (setCtx s k v).clockPorts = s.clockPorts := rfl
@[simp] theorem setCtx_ethAht (s : State) (k : Nat) (v : Ctx) : (setCtx s k v).ethAht = s.ethAht := rfl
@[simp] theorem setCtx_ethBft (s : State) (k : Nat) (v : Ctx) : (setCtx s k v).ethBft = s.ethBft := rfl
@[simp] theorem setCtx_held (s : State) (k : Nat) (v : Ctx) : (setCtx s k v).held = s.held := rfl
@[simp] theorem setCtx_walks (s : State) (k : Nat) (v : Ctx) : (setCtx s k v).walks = s.walks := rfl
@[simp] theorem setCtx_blockq (s : State) (k : Nat) (v : Ctx) : (setCtx s k v).blockq = s.blockq := rfl
@[simp] theorem setCtx_recalls (s : State) (k : Nat) (v : Ctx) : (setCtx s k v).recalls = s.recalls := rfl
@[simp] theorem setCtx_waiters (s : State) (k : Nat) (v : Ctx) : (setCtx s k v).waiters = s.waiters := rfl
@[simp] theorem setCtx_collIn (s : State) (k : Nat) (v : Ctx) : (setCtx s k v).collIn = s.collIn := rfl
@[simp] theorem setCtx_slots (s : State) (k : Nat) (v : Ctx) : (setCtx s k v).slots = s.slots := rfl
@[simp] theorem setCtx_tasks (s : State) (k : Nat) (v : Ctx) : (setCtx s k v).tasks = s.tasks := rfl
@[simp] theorem setCtx_mx (s : State) (k : Nat) (v : Ctx) : (setCtx s k v).mx = s.mx := rfl
@[simp] theorem setCtx_mxLast (s : State) (k : Nat) (v : Ctx) : (setCtx s k v).mxLast = s.mxLast := rfl
@[simp] theorem setCtx_tlb (s : State) (k : Nat) (v : Ctx) : (setCtx s k v).tlb = s.tlb := rfl
@[simp] theorem setCtx_cmds (s : State) (k : Nat) (v : Ctx) : (setCtx s k v).cmds = s.cmds := rfl
@[simp] theorem setCtx_bankCmds (s : State) (k : Nat) (v : Ctx) : (setCtx s k v).bankCmds = s.bankCmds := rfl
@[simp] theorem setCtx_detached (s : State) (k : Nat) (v : Ctx) : (setCtx s k v).detached = s.detached := rfl
@[simp] theorem setCtx_parts (s : State) (k : Nat) (v : Ctx) : (setCtx s k v).parts = s.parts := rfl
@[simp] theorem setCtx_dies (s : State) (k : Nat) (v : Ctx) : (setCtx s k v).dies = s.dies := rfl
@[simp] theorem setCtx_stackMem (s : State) (k : Nat) (v : Ctx) : (setCtx s k v).stackMem = s.stackMem := rfl
@[simp] theorem setCtx_blus (s : State) (k : Nat) (v : Ctx) : (setCtx s k v).blus = s.blus := rfl
@[simp] theorem setCtx_tables (s : State) (k : Nat) (v : Ctx) : (setCtx s k v).tables = s.tables := rfl
@[simp] theorem setCtx_acts (s : State) (k : Nat) (v : Ctx) : (setCtx s k v).acts = s.acts := rfl
@[simp] theorem setCtx_dists (s : State) (k : Nat) (v : Ctx) : (setCtx s k v).dists = s.dists := rfl
@[simp] theorem setCtx_alerts (s : State) (k : Nat) (v : Ctx) : (setCtx s k v).alerts = s.alerts := rfl
@[simp] theorem setCtx_backoff (s : State) (k : Nat) (v : Ctx) : (setCtx s k v).backoff = s.backoff := rfl
@[simp] theorem setCtx_alertWin (s : State) (k : Nat) (v : Ctx) : (setCtx s k v).alertWin = s.alertWin := rfl
@[simp] theorem setCtx_chan (s : State) (k : Nat) (v : Ctx) : (setCtx s k v).chan = s.chan := rfl
@[simp] theorem setCtx_openRows (s : State) (k : Nat) (v : Ctx) : (setCtx s k v).openRows = s.openRows := rfl
@[simp] theorem setCtx_pendingRfm (s : State) (k : Nat) (v : Ctx) : (setCtx s k v).pendingRfm = s.pendingRfm := rfl
@[simp] theorem setCtx_postponed (s : State) (k : Nat) (v : Ctx) : (setCtx s k v).postponed = s.postponed := rfl
@[simp] theorem setCtx_links (s : State) (k : Nat) (v : Ctx) : (setCtx s k v).links = s.links := rfl
@[simp] theorem setCtx_edgeRetries (s : State) (k : Nat) (v : Ctx) : (setCtx s k v).edgeRetries = s.edgeRetries := rfl
@[simp] theorem setCtx_edgeDown (s : State) (k : Nat) (v : Ctx) : (setCtx s k v).edgeDown = s.edgeDown := rfl
@[simp] theorem setCtx_evq (s : State) (k : Nat) (v : Ctx) : (setCtx s k v).evq = s.evq := rfl
@[simp] theorem setCtx_out (s : State) (k : Nat) (v : Ctx) : (setCtx s k v).out = s.out := rfl
@[simp] theorem setCtx_agenda (s : State) (k : Nat) (v : Ctx) : (setCtx s k v).agenda = s.agenda := rfl
@[simp] theorem setCtx_turnNo (s : State) (k : Nat) (v : Ctx) : (setCtx s k v).turnNo = s.turnNo := rfl
@[simp] theorem setCtx_cur (s : State) (k : Nat) (v : Ctx) : (setCtx s k v).cur = s.cur := rfl
@[simp] theorem setCtx_free (s : State) (k : Nat) (v : Ctx) : (setCtx s k v).free = s.free := rfl
@[simp] theorem setCtx_ids (s : State) (k : Nat) (v : Ctx) : (setCtx s k v).ids = s.ids := rfl

@[simp] theorem setCtx_ctxs (s : State) (k : Nat) (v : Ctx) : (setCtx s k v).ctxs = tabPut s.ctxs k v := rfl

/-! ### `setSlot` -/

@[simp] theorem setSlot_booted (s : State) (k : Nat) (v : Slot) : (setSlot s k v).booted = s.booted := rfl
@[simp] theorem setSlot_powered (s : State) (k : Nat) (v : Slot) : (setSlot s k v).powered = s.powered := rfl
@[simp] theorem setSlot_now (s : State) (k : Nat) (v : Slot) : (setSlot s k v).now = s.now := rfl
@[simp] theorem setSlot_rate (s : State) (k : Nat) (v : Slot) : (setSlot s k v).rate = s.rate := rfl
@[simp] theorem setSlot_svc (s : State) (k : Nat) (v : Slot) : (setSlot s k v).svc = s.svc := rfl
@[simp] theorem setSlot_actalert (s : State) (k : Nat) (v : Slot) : (setSlot s k v).actalert = s.actalert := rfl
@[simp] theorem setSlot_actmgmt (s : State) (k : Nat) (v : Slot) : (setSlot s k v).actmgmt = s.actmgmt := rfl
@[simp] theorem setSlot_node (s : State) (k : Nat) (v : Slot) : (setSlot s k v).node = s.node := rfl
@[simp] theorem setSlot_domain (s : State) (k : Nat) (v : Slot) : (setSlot s k v).domain = s.domain := rfl
@[simp] theorem setSlot_routes (s : State) (k : Nat) (v : Slot) : (setSlot s k v).routes = s.routes := rfl
@[simp] theorem setSlot_m0 (s : State) (k : Nat) (v : Slot) : (setSlot s k v).m0 = s.m0 := rfl
@[simp] theorem setSlot_m1 (s : State) (k : Nat) (v : Slot) : (setSlot s k v).m1 = s.m1 := rfl
@[simp] theorem setSlot_m2 (s : State) (k : Nat) (v : Slot) : (setSlot s k v).m2 = s.m2 := rfl
@[simp] theorem setSlot_m3 (s : State) (k : Nat) (v : Slot) : (setSlot s k v).m3 = s.m3 := rfl
@[simp] theorem setSlot_mem (s : State) (k : Nat) (v : Slot) : (setSlot s k v).mem = s.mem := rfl
@[simp] theorem setSlot_poison (s : State) (k : Nat) (v : Slot) : (setSlot s k v).poison = s.poison := rfl
@[simp] theorem setSlot_copies (s : State) (k : Nat) (v : Slot) : (setSlot s k v).copies = s.copies := rfl
@[simp] theorem setSlot_sets (s : State) (k : Nat) (v : Slot) : (setSlot s k v).sets = s.sets := rfl
@[simp] theorem setSlot_notices (s : State) (k : Nat) (v : Slot) : (setSlot s k v).notices = s.notices := rfl
@[simp] theorem setSlot_partials (s : State) (k : Nat) (v : Slot) : (setSlot s k v).partials = s.partials := rfl
@[simp] theorem setSlot_dir (s : State) (k : Nat) (v : Slot) : (setSlot s k v).dir = s.dir := rfl
@[simp] theorem setSlot_wts (s : State) (k : Nat) (v : Slot) : (setSlot s k v).wts = s.wts := rfl
@[simp] theorem setSlot_hostdir (s : State) (k : Nat) (v : Slot) : (setSlot s k v).hostdir = s.hostdir := rfl
@[simp] theorem setSlot_asks (s : State) (k : Nat) (v : Slot) : (setSlot s k v).asks = s.asks := rfl
@[simp] theorem setSlot_answers (s : State) (k : Nat) (v : Slot) : (setSlot s k v).answers = s.answers := rfl
@[simp] theorem setSlot_bankWaits (s : State) (k : Nat) (v : Slot) : (setSlot s k v).bankWaits = s.bankWaits := rfl
@[simp] theorem setSlot_clockPorts (s : State) (k : Nat) (v : Slot) : (setSlot s k v).clockPorts = s.clockPorts := rfl
@[simp] theorem setSlot_ethAht (s : State) (k : Nat) (v : Slot) : (setSlot s k v).ethAht = s.ethAht := rfl
@[simp] theorem setSlot_ethBft (s : State) (k : Nat) (v : Slot) : (setSlot s k v).ethBft = s.ethBft := rfl
@[simp] theorem setSlot_held (s : State) (k : Nat) (v : Slot) : (setSlot s k v).held = s.held := rfl
@[simp] theorem setSlot_walks (s : State) (k : Nat) (v : Slot) : (setSlot s k v).walks = s.walks := rfl
@[simp] theorem setSlot_blockq (s : State) (k : Nat) (v : Slot) : (setSlot s k v).blockq = s.blockq := rfl
@[simp] theorem setSlot_recalls (s : State) (k : Nat) (v : Slot) : (setSlot s k v).recalls = s.recalls := rfl
@[simp] theorem setSlot_waiters (s : State) (k : Nat) (v : Slot) : (setSlot s k v).waiters = s.waiters := rfl
@[simp] theorem setSlot_collIn (s : State) (k : Nat) (v : Slot) : (setSlot s k v).collIn = s.collIn := rfl
@[simp] theorem setSlot_ctxs (s : State) (k : Nat) (v : Slot) : (setSlot s k v).ctxs = s.ctxs := rfl
@[simp] theorem setSlot_tasks (s : State) (k : Nat) (v : Slot) : (setSlot s k v).tasks = s.tasks := rfl
@[simp] theorem setSlot_mx (s : State) (k : Nat) (v : Slot) : (setSlot s k v).mx = s.mx := rfl
@[simp] theorem setSlot_mxLast (s : State) (k : Nat) (v : Slot) : (setSlot s k v).mxLast = s.mxLast := rfl
@[simp] theorem setSlot_tlb (s : State) (k : Nat) (v : Slot) : (setSlot s k v).tlb = s.tlb := rfl
@[simp] theorem setSlot_cmds (s : State) (k : Nat) (v : Slot) : (setSlot s k v).cmds = s.cmds := rfl
@[simp] theorem setSlot_bankCmds (s : State) (k : Nat) (v : Slot) : (setSlot s k v).bankCmds = s.bankCmds := rfl
@[simp] theorem setSlot_detached (s : State) (k : Nat) (v : Slot) : (setSlot s k v).detached = s.detached := rfl
@[simp] theorem setSlot_parts (s : State) (k : Nat) (v : Slot) : (setSlot s k v).parts = s.parts := rfl
@[simp] theorem setSlot_dies (s : State) (k : Nat) (v : Slot) : (setSlot s k v).dies = s.dies := rfl
@[simp] theorem setSlot_stackMem (s : State) (k : Nat) (v : Slot) : (setSlot s k v).stackMem = s.stackMem := rfl
@[simp] theorem setSlot_blus (s : State) (k : Nat) (v : Slot) : (setSlot s k v).blus = s.blus := rfl
@[simp] theorem setSlot_tables (s : State) (k : Nat) (v : Slot) : (setSlot s k v).tables = s.tables := rfl
@[simp] theorem setSlot_acts (s : State) (k : Nat) (v : Slot) : (setSlot s k v).acts = s.acts := rfl
@[simp] theorem setSlot_dists (s : State) (k : Nat) (v : Slot) : (setSlot s k v).dists = s.dists := rfl
@[simp] theorem setSlot_alerts (s : State) (k : Nat) (v : Slot) : (setSlot s k v).alerts = s.alerts := rfl
@[simp] theorem setSlot_backoff (s : State) (k : Nat) (v : Slot) : (setSlot s k v).backoff = s.backoff := rfl
@[simp] theorem setSlot_alertWin (s : State) (k : Nat) (v : Slot) : (setSlot s k v).alertWin = s.alertWin := rfl
@[simp] theorem setSlot_chan (s : State) (k : Nat) (v : Slot) : (setSlot s k v).chan = s.chan := rfl
@[simp] theorem setSlot_openRows (s : State) (k : Nat) (v : Slot) : (setSlot s k v).openRows = s.openRows := rfl
@[simp] theorem setSlot_pendingRfm (s : State) (k : Nat) (v : Slot) : (setSlot s k v).pendingRfm = s.pendingRfm := rfl
@[simp] theorem setSlot_postponed (s : State) (k : Nat) (v : Slot) : (setSlot s k v).postponed = s.postponed := rfl
@[simp] theorem setSlot_links (s : State) (k : Nat) (v : Slot) : (setSlot s k v).links = s.links := rfl
@[simp] theorem setSlot_edgeRetries (s : State) (k : Nat) (v : Slot) : (setSlot s k v).edgeRetries = s.edgeRetries := rfl
@[simp] theorem setSlot_edgeDown (s : State) (k : Nat) (v : Slot) : (setSlot s k v).edgeDown = s.edgeDown := rfl
@[simp] theorem setSlot_evq (s : State) (k : Nat) (v : Slot) : (setSlot s k v).evq = s.evq := rfl
@[simp] theorem setSlot_out (s : State) (k : Nat) (v : Slot) : (setSlot s k v).out = s.out := rfl
@[simp] theorem setSlot_agenda (s : State) (k : Nat) (v : Slot) : (setSlot s k v).agenda = s.agenda := rfl
@[simp] theorem setSlot_turnNo (s : State) (k : Nat) (v : Slot) : (setSlot s k v).turnNo = s.turnNo := rfl
@[simp] theorem setSlot_cur (s : State) (k : Nat) (v : Slot) : (setSlot s k v).cur = s.cur := rfl
@[simp] theorem setSlot_free (s : State) (k : Nat) (v : Slot) : (setSlot s k v).free = s.free := rfl
@[simp] theorem setSlot_ids (s : State) (k : Nat) (v : Slot) : (setSlot s k v).ids = s.ids := rfl

@[simp] theorem setSlot_slots (s : State) (k : Nat) (v : Slot) : (setSlot s k v).slots = tabPut s.slots k v := rfl

/-! ### `setPart` -/

@[simp] theorem setPart_booted (s : State) (k : Nat) (v : Part) : (setPart s k v).booted = s.booted := rfl
@[simp] theorem setPart_powered (s : State) (k : Nat) (v : Part) : (setPart s k v).powered = s.powered := rfl
@[simp] theorem setPart_now (s : State) (k : Nat) (v : Part) : (setPart s k v).now = s.now := rfl
@[simp] theorem setPart_rate (s : State) (k : Nat) (v : Part) : (setPart s k v).rate = s.rate := rfl
@[simp] theorem setPart_svc (s : State) (k : Nat) (v : Part) : (setPart s k v).svc = s.svc := rfl
@[simp] theorem setPart_actalert (s : State) (k : Nat) (v : Part) : (setPart s k v).actalert = s.actalert := rfl
@[simp] theorem setPart_actmgmt (s : State) (k : Nat) (v : Part) : (setPart s k v).actmgmt = s.actmgmt := rfl
@[simp] theorem setPart_node (s : State) (k : Nat) (v : Part) : (setPart s k v).node = s.node := rfl
@[simp] theorem setPart_domain (s : State) (k : Nat) (v : Part) : (setPart s k v).domain = s.domain := rfl
@[simp] theorem setPart_routes (s : State) (k : Nat) (v : Part) : (setPart s k v).routes = s.routes := rfl
@[simp] theorem setPart_m0 (s : State) (k : Nat) (v : Part) : (setPart s k v).m0 = s.m0 := rfl
@[simp] theorem setPart_m1 (s : State) (k : Nat) (v : Part) : (setPart s k v).m1 = s.m1 := rfl
@[simp] theorem setPart_m2 (s : State) (k : Nat) (v : Part) : (setPart s k v).m2 = s.m2 := rfl
@[simp] theorem setPart_m3 (s : State) (k : Nat) (v : Part) : (setPart s k v).m3 = s.m3 := rfl
@[simp] theorem setPart_mem (s : State) (k : Nat) (v : Part) : (setPart s k v).mem = s.mem := rfl
@[simp] theorem setPart_poison (s : State) (k : Nat) (v : Part) : (setPart s k v).poison = s.poison := rfl
@[simp] theorem setPart_copies (s : State) (k : Nat) (v : Part) : (setPart s k v).copies = s.copies := rfl
@[simp] theorem setPart_sets (s : State) (k : Nat) (v : Part) : (setPart s k v).sets = s.sets := rfl
@[simp] theorem setPart_notices (s : State) (k : Nat) (v : Part) : (setPart s k v).notices = s.notices := rfl
@[simp] theorem setPart_partials (s : State) (k : Nat) (v : Part) : (setPart s k v).partials = s.partials := rfl
@[simp] theorem setPart_dir (s : State) (k : Nat) (v : Part) : (setPart s k v).dir = s.dir := rfl
@[simp] theorem setPart_wts (s : State) (k : Nat) (v : Part) : (setPart s k v).wts = s.wts := rfl
@[simp] theorem setPart_hostdir (s : State) (k : Nat) (v : Part) : (setPart s k v).hostdir = s.hostdir := rfl
@[simp] theorem setPart_asks (s : State) (k : Nat) (v : Part) : (setPart s k v).asks = s.asks := rfl
@[simp] theorem setPart_answers (s : State) (k : Nat) (v : Part) : (setPart s k v).answers = s.answers := rfl
@[simp] theorem setPart_bankWaits (s : State) (k : Nat) (v : Part) : (setPart s k v).bankWaits = s.bankWaits := rfl
@[simp] theorem setPart_clockPorts (s : State) (k : Nat) (v : Part) : (setPart s k v).clockPorts = s.clockPorts := rfl
@[simp] theorem setPart_ethAht (s : State) (k : Nat) (v : Part) : (setPart s k v).ethAht = s.ethAht := rfl
@[simp] theorem setPart_ethBft (s : State) (k : Nat) (v : Part) : (setPart s k v).ethBft = s.ethBft := rfl
@[simp] theorem setPart_held (s : State) (k : Nat) (v : Part) : (setPart s k v).held = s.held := rfl
@[simp] theorem setPart_walks (s : State) (k : Nat) (v : Part) : (setPart s k v).walks = s.walks := rfl
@[simp] theorem setPart_blockq (s : State) (k : Nat) (v : Part) : (setPart s k v).blockq = s.blockq := rfl
@[simp] theorem setPart_recalls (s : State) (k : Nat) (v : Part) : (setPart s k v).recalls = s.recalls := rfl
@[simp] theorem setPart_waiters (s : State) (k : Nat) (v : Part) : (setPart s k v).waiters = s.waiters := rfl
@[simp] theorem setPart_collIn (s : State) (k : Nat) (v : Part) : (setPart s k v).collIn = s.collIn := rfl
@[simp] theorem setPart_slots (s : State) (k : Nat) (v : Part) : (setPart s k v).slots = s.slots := rfl
@[simp] theorem setPart_ctxs (s : State) (k : Nat) (v : Part) : (setPart s k v).ctxs = s.ctxs := rfl
@[simp] theorem setPart_tasks (s : State) (k : Nat) (v : Part) : (setPart s k v).tasks = s.tasks := rfl
@[simp] theorem setPart_mx (s : State) (k : Nat) (v : Part) : (setPart s k v).mx = s.mx := rfl
@[simp] theorem setPart_mxLast (s : State) (k : Nat) (v : Part) : (setPart s k v).mxLast = s.mxLast := rfl
@[simp] theorem setPart_tlb (s : State) (k : Nat) (v : Part) : (setPart s k v).tlb = s.tlb := rfl
@[simp] theorem setPart_cmds (s : State) (k : Nat) (v : Part) : (setPart s k v).cmds = s.cmds := rfl
@[simp] theorem setPart_bankCmds (s : State) (k : Nat) (v : Part) : (setPart s k v).bankCmds = s.bankCmds := rfl
@[simp] theorem setPart_detached (s : State) (k : Nat) (v : Part) : (setPart s k v).detached = s.detached := rfl
@[simp] theorem setPart_dies (s : State) (k : Nat) (v : Part) : (setPart s k v).dies = s.dies := rfl
@[simp] theorem setPart_stackMem (s : State) (k : Nat) (v : Part) : (setPart s k v).stackMem = s.stackMem := rfl
@[simp] theorem setPart_blus (s : State) (k : Nat) (v : Part) : (setPart s k v).blus = s.blus := rfl
@[simp] theorem setPart_tables (s : State) (k : Nat) (v : Part) : (setPart s k v).tables = s.tables := rfl
@[simp] theorem setPart_acts (s : State) (k : Nat) (v : Part) : (setPart s k v).acts = s.acts := rfl
@[simp] theorem setPart_dists (s : State) (k : Nat) (v : Part) : (setPart s k v).dists = s.dists := rfl
@[simp] theorem setPart_alerts (s : State) (k : Nat) (v : Part) : (setPart s k v).alerts = s.alerts := rfl
@[simp] theorem setPart_backoff (s : State) (k : Nat) (v : Part) : (setPart s k v).backoff = s.backoff := rfl
@[simp] theorem setPart_alertWin (s : State) (k : Nat) (v : Part) : (setPart s k v).alertWin = s.alertWin := rfl
@[simp] theorem setPart_chan (s : State) (k : Nat) (v : Part) : (setPart s k v).chan = s.chan := rfl
@[simp] theorem setPart_openRows (s : State) (k : Nat) (v : Part) : (setPart s k v).openRows = s.openRows := rfl
@[simp] theorem setPart_pendingRfm (s : State) (k : Nat) (v : Part) : (setPart s k v).pendingRfm = s.pendingRfm := rfl
@[simp] theorem setPart_postponed (s : State) (k : Nat) (v : Part) : (setPart s k v).postponed = s.postponed := rfl
@[simp] theorem setPart_links (s : State) (k : Nat) (v : Part) : (setPart s k v).links = s.links := rfl
@[simp] theorem setPart_edgeRetries (s : State) (k : Nat) (v : Part) : (setPart s k v).edgeRetries = s.edgeRetries := rfl
@[simp] theorem setPart_edgeDown (s : State) (k : Nat) (v : Part) : (setPart s k v).edgeDown = s.edgeDown := rfl
@[simp] theorem setPart_evq (s : State) (k : Nat) (v : Part) : (setPart s k v).evq = s.evq := rfl
@[simp] theorem setPart_out (s : State) (k : Nat) (v : Part) : (setPart s k v).out = s.out := rfl
@[simp] theorem setPart_agenda (s : State) (k : Nat) (v : Part) : (setPart s k v).agenda = s.agenda := rfl
@[simp] theorem setPart_turnNo (s : State) (k : Nat) (v : Part) : (setPart s k v).turnNo = s.turnNo := rfl
@[simp] theorem setPart_cur (s : State) (k : Nat) (v : Part) : (setPart s k v).cur = s.cur := rfl
@[simp] theorem setPart_free (s : State) (k : Nat) (v : Part) : (setPart s k v).free = s.free := rfl
@[simp] theorem setPart_ids (s : State) (k : Nat) (v : Part) : (setPart s k v).ids = s.ids := rfl

@[simp] theorem setPart_parts (s : State) (k : Nat) (v : Part) : (setPart s k v).parts = tabPut s.parts k v := rfl

/-! ### `lShift` -/

@[simp] theorem lShift_pc (q : Seq) (v : Word) : (lShift q v).pc = q.pc := rfl
@[simp] theorem lShift_x (q : Seq) (v : Word) : (lShift q v).x = q.x := rfl
@[simp] theorem lShift_live (q : Seq) (v : Word) : (lShift q v).live = q.live := rfl
@[simp] theorem lShift_o (q : Seq) (v : Word) : (lShift q v).o = q.o := rfl
@[simp] theorem lShift_loops (q : Seq) (v : Word) : (lShift q v).loops = q.loops := rfl
@[simp] theorem lShift_rl (q : Seq) (v : Word) : (lShift q v).rl = q.rl := rfl
@[simp] theorem lShift_tl (q : Seq) (v : Word) : (lShift q v).tl = q.tl := rfl
@[simp] theorem lShift_fences (q : Seq) (v : Word) : (lShift q v).fences = q.fences := rfl
@[simp] theorem lShift_status (q : Seq) (v : Word) : (lShift q v).status = q.status := rfl
@[simp] theorem lShift_atBound (q : Seq) (v : Word) : (lShift q v).atBound = q.atBound := rfl
@[simp] theorem lShift_rc (q : Seq) (v : Word) : (lShift q v).rc = q.rc := rfl
@[simp] theorem lShift_dirty (q : Seq) (v : Word) : (lShift q v).dirty = q.dirty := rfl
@[simp] theorem lShift_evicted (q : Seq) (v : Word) : (lShift q v).evicted = q.evicted := rfl
@[simp] theorem lShift_ahead (q : Seq) (v : Word) : (lShift q v).ahead = q.ahead := rfl
@[simp] theorem lShift_l (q : Seq) (v : Word) : (lShift q v).l = #v[v, q.l[0], q.l[1], q.l[2]] := rfl
@[simp] theorem lShift_late (q : Seq) (v : Word) :
    (lShift q v).late = q.late.map (fun e => { e with back := e.back + 1 }) := rfl
@[simp] theorem lShift_acq (q : Seq) (v : Word) : (lShift q v).acq = q.acq := rfl
@[simp] theorem lShift_why (q : Seq) (v : Word) : (lShift q v).why = q.why := rfl

/-! ### `xKill` -/

@[simp] theorem xKill_pc (q : Seq) (i : BitVec 5) : (xKill q i).pc = q.pc := rfl
@[simp] theorem xKill_x (q : Seq) (i : BitVec 5) : (xKill q i).x = q.x := rfl
@[simp] theorem xKill_o (q : Seq) (i : BitVec 5) : (xKill q i).o = q.o := rfl
@[simp] theorem xKill_l (q : Seq) (i : BitVec 5) : (xKill q i).l = q.l := rfl
@[simp] theorem xKill_loops (q : Seq) (i : BitVec 5) : (xKill q i).loops = q.loops := rfl
@[simp] theorem xKill_rl (q : Seq) (i : BitVec 5) : (xKill q i).rl = q.rl := rfl
@[simp] theorem xKill_tl (q : Seq) (i : BitVec 5) : (xKill q i).tl = q.tl := rfl
@[simp] theorem xKill_fences (q : Seq) (i : BitVec 5) : (xKill q i).fences = q.fences := rfl
@[simp] theorem xKill_status (q : Seq) (i : BitVec 5) : (xKill q i).status = q.status := rfl
@[simp] theorem xKill_atBound (q : Seq) (i : BitVec 5) : (xKill q i).atBound = q.atBound := rfl
@[simp] theorem xKill_rc (q : Seq) (i : BitVec 5) : (xKill q i).rc = q.rc := rfl
@[simp] theorem xKill_dirty (q : Seq) (i : BitVec 5) : (xKill q i).dirty = q.dirty := rfl
@[simp] theorem xKill_evicted (q : Seq) (i : BitVec 5) : (xKill q i).evicted = q.evicted := rfl
@[simp] theorem xKill_ahead (q : Seq) (i : BitVec 5) : (xKill q i).ahead = q.ahead := rfl
@[simp] theorem xKill_late (q : Seq) (i : BitVec 5) : (xKill q i).late = q.late := rfl
@[simp] theorem xKill_acq (q : Seq) (i : BitVec 5) : (xKill q i).acq = q.acq := rfl
@[simp] theorem xKill_why (q : Seq) (i : BitVec 5) : (xKill q i).why = q.why := rfl

/-! ### A sequencer of a context -/

@[simp] theorem setSeq_part (c : Ctx) (sd : Side) (q : Seq) : (setSeq c sd q).part = c.part := by cases sd <;> rfl
@[simp] theorem setSeq_core (c : Ctx) (sd : Side) (q : Seq) : (setSeq c sd q).core = c.core := by cases sd <;> rfl
@[simp] theorem setSeq_task (c : Ctx) (sd : Side) (q : Seq) : (setSeq c sd q).task = c.task := by cases sd <;> rfl
@[simp] theorem setSeq_gang (c : Ctx) (sd : Side) (q : Seq) : (setSeq c sd q).gang = c.gang := by cases sd <;> rfl
@[simp] theorem setSeq_prio (c : Ctx) (sd : Side) (q : Seq) : (setSeq c sd q).prio = c.prio := by cases sd <;> rfl
@[simp] theorem setSeq_iter (c : Ctx) (sd : Side) (q : Seq) : (setSeq c sd q).iter = c.iter := by cases sd <;> rfl
@[simp] theorem setSeq_cblk (c : Ctx) (sd : Side) (q : Seq) : (setSeq c sd q).cblk = c.cblk := by cases sd <;> rfl
@[simp] theorem setSeq_place (c : Ctx) (sd : Side) (q : Seq) : (setSeq c sd q).place = c.place := by cases sd <;> rfl
@[simp] theorem setSeq_saved (c : Ctx) (sd : Side) (q : Seq) : (setSeq c sd q).saved = c.saved := by cases sd <;> rfl
@[simp] theorem setSeq_lastSlot (c : Ctx) (sd : Side) (q : Seq) : (setSeq c sd q).lastSlot = c.lastSlot := by cases sd <;> rfl
@[simp] theorem setSeq_since (c : Ctx) (sd : Side) (q : Seq) : (setSeq c sd q).since = c.since := by cases sd <;> rfl
@[simp] theorem setSeq_vl (c : Ctx) (sd : Side) (q : Seq) : (setSeq c sd q).vl = c.vl := by cases sd <;> rfl
@[simp] theorem setSeq_slices (c : Ctx) (sd : Side) (q : Seq) : (setSeq c sd q).slices = c.slices := by cases sd <;> rfl
@[simp] theorem setSeq_first (c : Ctx) (sd : Side) (q : Seq) : (setSeq c sd q).first = c.first := by cases sd <;> rfl
@[simp] theorem setSeq_v (c : Ctx) (sd : Side) (q : Seq) : (setSeq c sd q).v = c.v := by cases sd <;> rfl
@[simp] theorem setSeq_masks (c : Ctx) (sd : Side) (q : Seq) : (setSeq c sd q).masks = c.masks := by cases sd <;> rfl
@[simp] theorem setSeq_acc0 (c : Ctx) (sd : Side) (q : Seq) : (setSeq c sd q).acc0 = c.acc0 := by cases sd <;> rfl
@[simp] theorem setSeq_acc1 (c : Ctx) (sd : Side) (q : Seq) : (setSeq c sd q).acc1 = c.acc1 := by cases sd <;> rfl
@[simp] theorem setSeq_tiles (c : Ctx) (sd : Side) (q : Seq) : (setSeq c sd q).tiles = c.tiles := by cases sd <;> rfl
@[simp] theorem setSeq_q (c : Ctx) (sd : Side) (q : Seq) : (setSeq c sd q).q = c.q := by cases sd <;> rfl
@[simp] theorem setSeq_w (c : Ctx) (sd : Side) (q : Seq) : (setSeq c sd q).w = c.w := by cases sd <;> rfl
@[simp] theorem setSeq_bq (c : Ctx) (sd : Side) (q : Seq) : (setSeq c sd q).bq = c.bq := by cases sd <;> rfl
@[simp] theorem setSeq_binds (c : Ctx) (sd : Side) (q : Seq) : (setSeq c sd q).binds = c.binds := by cases sd <;> rfl
@[simp] theorem setSeq_fault (c : Ctx) (sd : Side) (q : Seq) : (setSeq c sd q).fault = c.fault := by cases sd <;> rfl
@[simp] theorem setSeq_mf (c : Ctx) (sd : Side) (q : Seq) : (setSeq c sd q).mf = c.mf := by cases sd <;> rfl
@[simp] theorem seqOf_setSeq (c : Ctx) (sd : Side) (q : Seq) : seqOf (setSeq c sd q) sd = q := by cases sd <;> rfl
theorem seqOf_setSeq_other (c : Ctx) (sd sd' : Side) (q : Seq) (h : sd' ≠ sd) : seqOf (setSeq c sd q) sd' = seqOf c sd' := by
  cases sd <;> cases sd' <;> first | rfl | exact absurd rfl h

/-! ### The register cache and x writes leave the rest of a sequencer alone -/

@[simp] theorem rcTouch_pc (q : Seq) (i : BitVec 5) : (rcTouch q i).pc = q.pc := by
  unfold rcTouch; dsimp only; split <;> (try split) <;> (try split) <;> rfl
@[simp] theorem rcTouch_x (q : Seq) (i : BitVec 5) : (rcTouch q i).x = q.x := by
  unfold rcTouch; dsimp only; split <;> (try split) <;> (try split) <;> rfl
@[simp] theorem rcTouch_live (q : Seq) (i : BitVec 5) : (rcTouch q i).live = q.live := by
  unfold rcTouch; dsimp only; split <;> (try split) <;> (try split) <;> rfl
@[simp] theorem rcTouch_o (q : Seq) (i : BitVec 5) : (rcTouch q i).o = q.o := by
  unfold rcTouch; dsimp only; split <;> (try split) <;> (try split) <;> rfl
@[simp] theorem rcTouch_l (q : Seq) (i : BitVec 5) : (rcTouch q i).l = q.l := by
  unfold rcTouch; dsimp only; split <;> (try split) <;> (try split) <;> rfl
@[simp] theorem rcTouch_loops (q : Seq) (i : BitVec 5) : (rcTouch q i).loops = q.loops := by
  unfold rcTouch; dsimp only; split <;> (try split) <;> (try split) <;> rfl
@[simp] theorem rcTouch_rl (q : Seq) (i : BitVec 5) : (rcTouch q i).rl = q.rl := by
  unfold rcTouch; dsimp only; split <;> (try split) <;> (try split) <;> rfl
@[simp] theorem rcTouch_tl (q : Seq) (i : BitVec 5) : (rcTouch q i).tl = q.tl := by
  unfold rcTouch; dsimp only; split <;> (try split) <;> (try split) <;> rfl
@[simp] theorem rcTouch_fences (q : Seq) (i : BitVec 5) : (rcTouch q i).fences = q.fences := by
  unfold rcTouch; dsimp only; split <;> (try split) <;> (try split) <;> rfl
@[simp] theorem rcTouch_status (q : Seq) (i : BitVec 5) : (rcTouch q i).status = q.status := by
  unfold rcTouch; dsimp only; split <;> (try split) <;> (try split) <;> rfl
@[simp] theorem rcTouch_atBound (q : Seq) (i : BitVec 5) : (rcTouch q i).atBound = q.atBound := by
  unfold rcTouch; dsimp only; split <;> (try split) <;> (try split) <;> rfl
@[simp] theorem rcTouch_ahead (q : Seq) (i : BitVec 5) : (rcTouch q i).ahead = q.ahead := by
  unfold rcTouch; dsimp only; split <;> (try split) <;> (try split) <;> rfl
@[simp] theorem rcTouch_acq (q : Seq) (i : BitVec 5) : (rcTouch q i).acq = q.acq := by
  unfold rcTouch; dsimp only; split <;> (try split) <;> (try split) <;> rfl
@[simp] theorem rcTouch_why (q : Seq) (i : BitVec 5) : (rcTouch q i).why = q.why := by
  unfold rcTouch; dsimp only; split <;> (try split) <;> (try split) <;> rfl
@[simp] theorem xWrite_pc (q : Seq) (i : BitVec 5) (v : Word) : (xWrite q i v).pc = q.pc := by
  unfold xWrite; split <;> simp
@[simp] theorem xWrite_o (q : Seq) (i : BitVec 5) (v : Word) : (xWrite q i v).o = q.o := by
  unfold xWrite; split <;> simp
@[simp] theorem xWrite_l (q : Seq) (i : BitVec 5) (v : Word) : (xWrite q i v).l = q.l := by
  unfold xWrite; split <;> simp
@[simp] theorem xWrite_loops (q : Seq) (i : BitVec 5) (v : Word) : (xWrite q i v).loops = q.loops := by
  unfold xWrite; split <;> simp
@[simp] theorem xWrite_rl (q : Seq) (i : BitVec 5) (v : Word) : (xWrite q i v).rl = q.rl := by
  unfold xWrite; split <;> simp
@[simp] theorem xWrite_tl (q : Seq) (i : BitVec 5) (v : Word) : (xWrite q i v).tl = q.tl := by
  unfold xWrite; split <;> simp
@[simp] theorem xWrite_fences (q : Seq) (i : BitVec 5) (v : Word) : (xWrite q i v).fences = q.fences := by
  unfold xWrite; split <;> simp
@[simp] theorem xWrite_status (q : Seq) (i : BitVec 5) (v : Word) : (xWrite q i v).status = q.status := by
  unfold xWrite; split <;> simp
@[simp] theorem xWrite_atBound (q : Seq) (i : BitVec 5) (v : Word) : (xWrite q i v).atBound = q.atBound := by
  unfold xWrite; split <;> simp
@[simp] theorem xWrite_ahead (q : Seq) (i : BitVec 5) (v : Word) : (xWrite q i v).ahead = q.ahead := by
  unfold xWrite; split <;> simp
@[simp] theorem xWrite_acq (q : Seq) (i : BitVec 5) (v : Word) : (xWrite q i v).acq = q.acq := by
  unfold xWrite; split <;> simp
@[simp] theorem xWrite_why (q : Seq) (i : BitVec 5) (v : Word) : (xWrite q i v).why = q.why := by
  unfold xWrite; split <;> simp

end Sys2Proof.Laws
end

