-- ==== Sys2Proof/Tests/Slice0.lean ====
section
/-!
SUPPORT. Tests: ill-formed terms that the check refuses, words written out from the spec's encoding tables, single steps with
results calculated by hand from the spec, and for each statement with hypotheses a state and operands that meet them.
-/

open Sys2Proof Sys2Proof.Machine

namespace Sys2Proof.Tests

set_option Elab.async false

/-! ## Well-formedness: a term each check refuses, beside one it accepts -/

theorem test_wf_reserved_specifier : Instr.wf (.mv (.x false 1) (.reserved 0x00)) = false ∧
    Instr.wf (.mv (.x false 1) (.reserved 0x78)) = true := by decide
theorem test_wf_sbr_fields : Instr.wf (.sbr 1 2 3 0 0 0 false 0 0) = false ∧
    Instr.wf (.sbr 1 2 3 0 0 1 false 0 0) = true ∧ Instr.wf (.sbr 1 2 0 0 0 0 true 0 0) = false := by decide
theorem test_wf_signed_dword : Instr.wf (.ldS 3 (.x false 1) (.x false 2) (.x false 0) 0) = false := by decide
theorem test_wf_unit_type : Instr.wf (.vld 0 (.v 1) (.x false 2) (.x false 0) 0) = false ∧
    Instr.wf (.vst 15 (.v 1) (.x false 2) (.x false 0) 0) = false := by decide
theorem test_wf_kvgth : Instr.wf (.kvgth true true 0 3 (.x false 1) (.t 1) (.x false 2) (.x false 3)) = false ∧
    Instr.wf (.kvgth true false 1 3 (.x false 1) (.t 1) (.x false 2) (.x false 3)) = false := by decide
theorem test_wf_cpy_handle : Instr.wf (.cpy false false 0 0 3 (.x false 1) (.x false 2) (.x false 3) (.x false 4)) = false := by
  decide
theorem test_wf_drain_scales : Instr.wf (.drain false false false 13 3 (.x false 1) (.t 2) (.x false 3)) = false := by decide
theorem test_wf_sparse : Instr.wf (.mms 5 5 13 false false false 1 (.acc 0) (.t 1) (.t 2)) = false ∧
    Instr.wf (.tpln 5 false false 0 (.t 1) (.t 2) (.t 3)) = false := by decide

/-! ## Words from the encoding tables (Tables 3.1 to 3.4 and the instructions' own; Table 13.6 for kernel words) -/

theorem test_word_system : decode64 .x 0x0103000000000130 = .live 0x130 ∧
    decode64 .a 0x020038E800000000 = .fence 7 3 5 := by decide +kernel
theorem test_word_scalar : decode64 .x 0x0800052324000000 = .add (.x false 5) (.x true 3) (.x true 4) ∧
    decode64 .a 0x12016296002BFFF8 = .sbr 12 10 11 0 0 1 false 2 (-8) := by decide +kernel
theorem test_word_branch : decode64 .x 0x1200C40100000004 = .loop (.imm 4) true 4 := by decide +kernel
theorem test_word_work : decode64 .x 0x1400000000000000 = .yield ∧ decode64 .a 0x1401000000000000 = .done ∧
    decode64 .x 0x1402030904000001 = .postC (.x false 3) (.x false 9) (.x false 4) := by decide +kernel
theorem test_word_load : decode64 .x 0x2003032500000040 = .ld 3 (.x false 3) (.x true 5) (.x false 0) 64 := by decide +kernel
theorem test_word_vector_memory : decode64 .x 0x282A830500000000 = .vld 5 (.v 3) (.x false 5) (.x false 0) 0 ∧
    decode64 .x 0x2800850607000B01 = .vlds 0xB true (.v 5) (.x false 6) (.x false 7) ∧
    decode64 .x 0x2B00840982000501 = .vfas 5 true (.v 4) (.x false 9) (.v 2) := by decide +kernel
theorem test_word_vector : decode64 .x 0x44027181C0000000 = .vcmpLt .m (.v 1) (.imm 0) := by decide +kernel
theorem test_word_matrix : decode64 .x 0x500169A1A2B9D00C = .mms 0xB 0x9 0xD false false true 1 (.acc 1) (.t 1) (.t 2) ∧
    decode64 .x 0x5200A2A600800002 = .tpln 8 true false 0 (.t 2) (.t 6) (.x false 0) := by decide +kernel
theorem test_word_tile : decode64 .x 0x5800A30900000000 = .tdef false (.t 3) (.x false 9) ∧
    decode64 .x 0x580204A300000000 = .twaitR (.x false 4) (.t 3) ∧
    decode64 .x 0x580400A205000001 = .tsetlC (.x false 0) (.t 2) (.x false 5) := by decide +kernel
theorem test_word_translation : decode64 .x 0x590000150000A000 = .tlbiVa (.x false 21) 5 ∧
    decode64 .x 0x5900000000006001 = .tlbiAll 3 ∧ decode64 .x 0x5902000300000000 = .hinv (.x false 3) := by decide +kernel
theorem test_word_stream : decode64 .x 0x6801510000000000 = .sfree (.q 1) := by decide +kernel
theorem test_word_not_permitted : decode64 .a 0x4301828100000001 = .illegalOpcode 0x4301828100000001 := by decide +kernel

/-! ## Small states -/

/-- A sequencer at 0x10000 with x1 to x16 live and in its register cache; `l` lists their values from x0 on. -/
def seqWith (l : List Word) : Seq :=
  { Seq.reset with pc := 0x10000, status := .running, live := 0x1FFFE, rc := (List.range 16).map (fun i => BitVec.ofNat 5 (i + 1)),
                   x := Vector.ofFn (fun i => l.getD i.val 0), o := Vector.replicate 8 6, l := Vector.replicate 4 9 }

/-- A v register tagged `t` whose first elements are these. -/
def regOf (t : ETy) (vals : List Word) : VReg := ⟨t, putElems t (List.replicate 1024 0) (vals.map some)⟩

/-- A context in slot 0 with one slice of its own, a length of 4, and v registers of i32. -/
def ctxWith (l : List Word) : Ctx :=
  { Ctx.reset with place := .inSlot 0, cblk := 0x7000000000, a := seqWith l, x := seqWith l, vl := 4, slices := 1,
                   v := Vector.replicate 32 (regOf .i32 [1, 2, 3, 4]), acc0 := ⟨.f32, []⟩ }

/-- The partition's handle 0x10000 names rows 0x4000 to 0x400F of stack 0. -/
def partWith : Part :=
  { Part.reset with configured := true, clus := 0xFFFF, gran := BitVec.allOnes 512,
                    breg := Vector.replicate 8 (0x4000, 0x4040), stbase := 0x400000, evlog := 0x800000, evcap := 4,
                    kvpool := 0x20000, kvpages := 4, handles := [(0, ⟨true, true, true, 0, 1, 0x4000, 16, 0⟩)] }

/-- Pages 0x10000 (core 0's scratchpad), 0x20000 (device memory at 0x100000), 0x30000 (the host's), 0x40000 (facet). -/
def fourPages : List Tlb := [⟨0, 0x10000, 16, 0x800000003F⟩, ⟨0, 0x20000, 16, 0x10003F⟩, ⟨0, 0x30000, 16, 0x100000000003F⟩,
  ⟨0, 0x40000, 16, 0x2000BF⟩]

/-- Core 0 and its copy engine hold the four pages' translations. -/
def stateWith (c : Ctx) : State :=
  { State.reset with booted := true, svc := 2, parts := [(0, partWith)], slots := [(0, { Slot.reset with ctx := some 0 })],
                     ctxs := [(0, c)], now := 100,
                     tlb := [(0, fourPages), (2048, fourPages)] }

def tiny (l : List Word) : State := stateWith (ctxWith l)

/-- The same, the A sequencer at work. -/
def onA (s : State) : State := { s with cur := { s.cur with side := .a } }

def isNext (o : Host.Outcome State Fault Refusal) : Bool := match o with | .next _ => true | _ => false

/-- The state an instruction answers. -/
def after (i : Instr) (s : State) : State := match exec i s with | .next t => t | _ => s

/-- The last result after an instruction: the value it wrote. -/
def result (i : Instr) (s : State) : Word := (curSeq (after i s)).l[0]

/-- The code of the fault a check stops with. -/
def stopCode : Stop → Option (BitVec 8)
  | .fault f => some f.code
  | .walkFault f _ => some f.code
  | .stall _ => none
  | .wait _ => none

def faultsWith {α : Type} (r : Res α) (code : BitVec 8) : Bool :=
  match r with
  | .ok _ => false
  | .error e => stopCode e == some code

/-- The code in the context's stop record after an instruction. -/
def faultCode (i : Instr) (s : State) : Option (BitVec 8) := (curCtx (after i s)).fault.map FaultInfo.code

/-! ## Encoding, steps and fetches: the premises meet -/

theorem met_never_instructions : (0xFF00000000000000 : Word).extractLsb' 56 8 = 0xFF#8 ∧
    (0x00FFFFFFFFFFFFFF : Word).extractLsb' 56 8 = 0x00#8 := by decide +kernel
theorem met_decode_encode : (Instr.add (.x false 5) (.imm 31) (.imm (-32))).wf = true ∧
    (encode (.add (.x false 5) (.imm 31) (.imm (-32)))).map (fun w =>
      groupOn .a (w.extractLsb' 56 8) (w.extractLsb' 48 8)) = some true := by decide +kernel
theorem met_step_sequencer : (let s := { tiny [] with mem := memWrite [] 0x8000000000 (leBytes 8 0x0100000000000000) }
    mayIssue s 0 .x && okRes (fetchWord (beginSeq s 0 .x))) = true ∧
    (seqOf (ctxAt (after .nop (tiny [])) 0) .x).evicted = [] ∧
    (∀ e ∈ (after .nop (tiny [])).ctxs, e.2.a.status = .running ∧ e.2.x.status = .running) := by decide +kernel
theorem met_step_kernel : (let s := placeKernel State.reset 0x04000000
    ((kernAt (atBlu s 0 false .none)).bind (fun k =>
      decodeKernel (kernelWord s k.cmd.stack (kernPc (atBlu s 0 false .none) k)))) = some (.kAct 0 0)) := by decide +kernel
theorem met_step_event : ownTurn .alertWindowReset = true ∧ ownTurn (.illegalOpcode 0) = false ∧
    (tiny []).bankWaits = [] ∧ heldByWave (tiny []) .alertWindowReset = false := by decide +kernel
/-- A load's bytes may be read late; a `nop` reads none. -/
theorem met_step_late : lateLoads (.ld 3 (.x false 3) (.x false 1) (.x false 0) 0) [(0, 0x8000000000, 8)] =
      [⟨.x false 3, 0, 0, 0x8000000000, 8, false⟩] ∧ lateLoads .nop (after .nop (tiny [])).cur.reads = [] := by decide +kernel
/-- An agent's step that leaves an access of the device in the queue of a bank. -/
theorem met_step_device_access : (let s := { tiny [] with bankWaits := [⟨9, .home, 0, 3⟩] }
    (after .alertWindowReset s).bankWaits.any (fun w => w.who = .home)) = true := by decide +kernel
theorem met_fetch_scratch : (match access (tiny []) 0x10000 0 needX with
    | .ok (s, h) => h.tgt == .scratch 0x8000000000 && !poisoned s 0x8000000000 && !fenceBlocks (tiny []) .i
    | _ => false) = true := by decide +kernel
theorem met_fetch_device : (let s := stateWith { ctxWith [] with x := { seqWith [] with pc := 0x2FFF8 } }
    match access s 0x2FFF8 0 needX with
    | .ok (t, h) => h.tgt == .device 0x10FFF8 && (homeHolds s (fetchAsker s) 0 0 (lineOf 0x10FFF8) false).isNone &&
        !poisoned (noteRead (servedLine t (lineOf 0x10FFF8) (some 0)) (lineOf 0x10FFF8) walkerAgent) 0x10FFF8
    | _ => false) = true := by decide +kernel
theorem met_nothing_stops : State.reset.powered = true ∧
    isPowerOn (nextTurn { State.reset with powered := false, agenda := [.tick 1 1] }).2 = false := by decide +kernel
theorem met_memory_form : Memory.wf State.reset.mem ∧ isNext (step { State.reset with agenda := [.tick 5 9] }) = true := by
  decide +kernel

/-- The invariants hold of a state with a context, and it has a next state. -/
theorem met_invariants : (∀ e ∈ (tiny []).ctxs, e.2.a.x[0] = 0 ∧ e.2.x.x[0] = 0) ∧
    (∀ e ∈ (tiny []).ctxs, e.2.x.loops.length ≤ 6 ∧ e.2.x.rc.length ≤ 16 ∧ e.2.masks.length ≤ 8) ∧
    isNext (step { tiny [] with agenda := [.tick 5 9] }) = true := by decide +kernel

/-! ## Scalar registers and integer instructions -/

theorem met_scalar_registers : (5 : BitVec 5) ≠ 0 ∧ (seqWith []).rc.length = 16 := by decide +kernel
theorem met_in_slot : (slotAt (tiny []) 0).ctx = some (curKey (tiny [])) ∧ classOk .x .sdst (.x false 31) = true := by
  decide +kernel
/-- Every kind of scalar source and destination is ready. -/
theorem met_operands : (let s := stateWith { ctxWith [] with q := #v[[⟨7, false, 0, 0, 0, 0, 0, false, false⟩], [], [], []] }
    let dst : List Spec := [.x false 0, .x false 31, .o 7, .q 1]
    let src : List Spec := [.x false 0, .x true 16, .o 7, .l 3, .q 0, .k 5, .imm 31]
    dst.all (fun d => src.all (fun a => src.all (fun b =>
      (decide (a = .q 0) && decide (b = .q 0)) || operandsReady s [opD .sdst d, opA .ssrc a, opB .ssrc b])))) = true := by
  decide +kernel

def d3 : Spec := .x false 3
def a1 : Spec := .x false 1
def a2 : Spec := .x false 2
def minInt : Word := 0x8000000000000000

theorem test_add_wraps : result (.add d3 a1 a2) (tiny [0, BitVec.allOnes 64, 2]) = 1 := by decide +kernel
theorem test_sub_immediate : result (.sub d3 a1 (.imm (-32))) (tiny [0, 1]) = 33 := by decide +kernel
theorem test_shift_count_mod_64 : result (.shl d3 a1 a2) (tiny [0, 1, 65]) = 2 ∧
    result (.sar d3 a1 a2) (tiny [0, minInt, 63]) = BitVec.allOnes 64 := by decide +kernel
theorem test_mulh_signs : result (.mulh d3 a1 a2) (tiny [0, BitVec.allOnes 64, 2]) = BitVec.allOnes 64 ∧
    result (.mulhu d3 a1 a2) (tiny [0, BitVec.allOnes 64, 2]) = 1 := by decide +kernel
theorem test_div_corners : result (.div d3 a1 a2) (tiny [0, minInt, BitVec.allOnes 64]) = minInt ∧
    result (.div d3 a1 a2) (tiny [0, 7, 0]) = BitVec.allOnes 64 := by decide +kernel
theorem test_mod_sign_of_dividend : result (.mod d3 a1 a2) (tiny [0, -7, 3]) = -1 ∧
    result (.mod d3 a1 a2) (tiny [0, 7, 0]) = 7 := by decide +kernel
theorem test_min_signed : result (.min d3 a1 a2) (tiny [0, minInt, 1]) = minInt ∧
    result (.minu d3 a1 a2) (tiny [0, minInt, 1]) = 1 := by decide +kernel
theorem test_slt_sltu : result (.slt d3 a1 a2) (tiny [0, minInt, 1]) = 1 ∧
    result (.sltu d3 a1 a2) (tiny [0, minInt, 1]) = 0 := by decide +kernel
theorem test_counts_of_zero : result (.clz d3 (.x false 0)) (tiny []) = 64 ∧ result (.popc d3 (.imm (-1))) (tiny []) = 64 := by
  decide +kernel
theorem test_extend : result (.sext d3 a1 0) (tiny [0, 0x1FF]) = BitVec.allOnes 64 ∧
    result (.zext d3 a1 1) (tiny [0, 0x12345]) = 0x2345 := by decide +kernel
theorem test_lih_keeps_low : result (.lih d3 a1 0xFFFFFFFF) (tiny [0, 0x12345678]) = 0xFFFFFFFF12345678 := by decide +kernel
theorem test_last_use_kills : xRead (curSeq (after (.mv d3 (.x true 1)) (tiny [0, 5]))) 1 = 0 := by decide +kernel
theorem test_x0_discards : xRead (curSeq (after (.add (.x false 0) a1 a2) (tiny [0, 5, 6]))) 0 = 0 ∧
    result (.add (.x false 0) a1 a2) (tiny [0, 5, 6]) = 0 := by decide +kernel
theorem test_immediate_shift_bound : faultCode (.shli d3 a1 64) (tiny []) = some 0x02 ∧
    faultCode (.shli d3 a1 63) (tiny []) = none := by decide +kernel
theorem test_reserved_k_faults : faultCode (.mv d3 (.k 6)) (tiny []) = some 0x02 := by decide +kernel

/-! ## Scalar FP32 -/

theorem met_fp32_nan : fvIsNaN (f32Val 0x7FC00000) = true ∧ fvIsNaN (f32Val 0xFF800001) = true := by decide +kernel
theorem test_fadd_rounds_to_even : result (.fadd d3 a1 a2) (tiny [0, 0x3F800000, 0x33800000]) = 0x3F800000 ∧
    result (.fadd d3 a1 a2) (tiny [0, 0x3F800001, 0x33800000]) = 0x3F800002 := by decide +kernel
theorem test_fmul_subnormal : result (.fmul d3 a1 a2) (tiny [0, 0x00800000, 0x3F000000]) = 0x00400000 := by decide +kernel
theorem test_ffma_one_rounding : result (.ffma d3 a1 a1 a2) (tiny [0, 0x3F800001, 0xBF800002]) = 0x28800000 := by
  decide +kernel
theorem test_fcmp : result (.fcmpEq d3 a1 a2) (tiny [0, 0, 0x80000000]) = 1 ∧
    result (.fcmpUn d3 a1 a2) (tiny [0, 0x7FC00000, 0]) = 1 := by decide +kernel
theorem test_fadd_immediate_is_value : result (.fadd d3 a1 (.imm 1)) (tiny [0, 0x3F800000]) = 0x40000000 := by decide +kernel
theorem test_fcvt_saturates : result (.fcvt d3 a1 1 13) (tiny [0, 0x43480000]) = 127 ∧
    result (.fcvt d3 a1 13 7) (tiny [0, 16777217]) = 0x4B800000 := by decide +kernel

/-! ## Branches, jumps, loops, system instructions -/

theorem met_link : operandsReady (tiny []) [opD .link (.x false 0)] = true ∧
    operandsReady (tiny [0, 8]) [opD .link (.o 3), opA .jsrc a1] = true := by decide +kernel
theorem met_branch_outcomes : operandsReady (onA (tiny [])) [opD .bqName .bq, opA .ssrc a1, opB .ssrc (.imm 0)] = true ∧
    (curCtx (onA (tiny []))).bq.length < 64 ∧
    operandsReady (stateWith { ctxWith [] with bq := [true] }) [opD .bqName .bq] = true ∧
    operandsReady (tiny []) [opD .mName .m] = true ∧ okRes (needVector (tiny [])) = true := by decide +kernel
theorem met_jr_misaligned : operandValue (tiny [0, 12]) [opD .link d3, opA .jsrc a1] 1 = 12 ∧
    operandsReady (tiny [0, 12]) [opD .link d3, opA .jsrc a1] = true := by decide +kernel

def sixLoops : List LoopEntry := List.replicate 6 ⟨0, 1, 0, 0x20000, false⟩

theorem met_loop : operandsReady (tiny [0, 4]) [opA .ssrc a1] = true ∧ (4 : BitVec 32).toInt ≥ 1 ∧
    (let s := stateWith { ctxWith [0, 4] with x := { seqWith [0, 4] with loops := sixLoops } }
     operandsReady s [opA .ssrc a1] = true ∧ 6 ≤ (curSeq s).loops.length ∧
     (curSeq s).loops.head?.map LoopEntry.last ≠ some (curSeq s).pc) := by decide +kernel
theorem met_sbr : (([12, 10, 11] : List (BitVec 5)).Nodup) ∧
    operandsReady (tiny []) (([12, 10, 11] : List (BitVec 5)).map (fun i => opD .ssrc (.x false i))) = true := by decide +kernel

theorem test_branch_back : (curSeq (after (.bLt a1 a2 (-2)) (tiny [0, minInt, 1]))).pc = 0xFFF0 ∧
    (curSeq (after (.bLtu a1 a2 (-2)) (tiny [0, minInt, 1]))).pc = 0x10008 := by decide +kernel
theorem test_jal_links : result (.jal d3 16) (tiny []) = 0x10008 ∧ (curSeq (after (.jal d3 16) (tiny []))).pc = 0x10080 := by
  decide +kernel
theorem test_jr_alignment : faultCode (.jr (.x false 0) a1) (tiny [0, 12]) = some 0x04 ∧
    (curSeq (after (.jr (.x false 0) a1) (tiny [0, 16]))).pc = 16 := by decide +kernel
theorem test_loop_entry : (curSeq (after (.loop a1 true 2) (tiny [0, 3]))).loops = [⟨0, 2, 0x10008, 0x10010, true⟩] := by
  decide +kernel
theorem test_loop_zero_skips : (curSeq (after (.loop a1 false 2) (tiny [0, 0]))).pc = 0x10018 := by decide +kernel
theorem test_loop_depth : faultCode (.loop a1 false 2)
    (stateWith { ctxWith [0, 1] with x := { seqWith [0, 1] with loops := sixLoops } }) = some 0x0C := by decide +kernel
theorem test_loop_end : endCheck 0x20 [⟨0, 0, 0x10, 0x20, false⟩, ⟨5, 1, 0, 0x20, false⟩] =
    (0, [⟨6, 0, 0, 0x20, false⟩], false) := by decide +kernel
/-- 1,000 elements of 4 bytes: one slice's strip is 256, so x1 counts 744 and x2 moves 1,024 bytes. -/
theorem test_sbr_advances : (let q := curSeq (after (.sbr 1 2 0 0 0 0 false 2 (-1)) (tiny [0, 1000, 0x40]))
    (xRead q 1, xRead q 2, q.pc)) = (744, 0x440, 0xFFF8) := by decide +kernel
theorem test_bmz_empty_mask : (curSeq (after (.bmz .m 4) (stateWith { ctxWith [] with masks := [0xF0] }))).pc = 0x10020 := by
  decide +kernel
theorem test_bout_bin : (curCtx (after (.boutGe .bq a1 (.imm 0)) (onA (tiny [0, 0])))).bq = [true] ∧
    (curSeq (after (.bin .bq 2) (stateWith { ctxWith [] with bq := [true, false] }))).pc = 0x10010 := by decide +kernel

theorem met_system : operandsReady (tiny []) [opD .sdst d3] = true ∧ (stateWord (tiny []) 0x010).isSome = true ∧
    okRes (vectorReady (tiny [])) = true ∧ stateWord (tiny []) 0xFFF = none ∧
    operandsReady (tiny []) [opA .ssrc a1] = true ∧ (stateWord (tiny []) 0x000).isSome = true ∧ rwWord 0x000 = false ∧
    rwWord 0x035 = true := by decide +kernel
theorem met_traps : faultsWith (fetchWord (stateWith { ctxWith [] with x := { seqWith [] with pc := 0x50000 } })) 0x05 = true := by
  decide +kernel
theorem test_live_kills : (let q := curSeq (after (.live 0x4) (tiny [0, 5, 6]))
    (xRead q 1, xRead q 2)) = (0, 6) := by decide +kernel
theorem test_sset_length_is_bounded : (curCtx (after (.sset 0x010 a1) (tiny [0, 10000]))).vl = 256 := by decide +kernel
theorem test_sset_read_only : faultCode (.sset 0x000 a1) (tiny []) = some 0x06 ∧ faultCode (.sset 0xFFF a1) (tiny []) = some 0x02 := by
  decide +kernel
theorem test_trap_record : ((curCtx (after (.brk 5) (tiny []))).fault.map (fun f => (f.code, f.info, f.pc, f.fl))) =
    some (0x13, 0x8005, 0x10000, true) := by decide +kernel
theorem test_fault_stops_sequencer : (let s := after (.trap 1) (tiny [0, 7])
    ((curSeq s).status, (curSeq s).pc, xRead (curSeq s) 1, (partAt s 0).line)) = (.faulted, 0x10000, 7, true) := by decide +kernel
theorem test_second_fault_sets_mf : (let s := after (.trap 2) (onA (after (.trap 1) (tiny [])))
    (((curCtx s).fault.map FaultInfo.info), (curCtx s).mf)) = (some 1, true) := by decide +kernel

/-! ## Vector instructions -/

def v1 : Spec := .v 1
def v2 : Spec := .v 2
def v3 : Spec := .v 3

/-- v1 and v2 as given, with a mask stack. -/
def withVregs (r1 r2 : VReg) (masks : List (BitVec 12288)) (vl : Word) : State :=
  let c := ctxWith [0, 3, 2]
  stateWith { c with v := (c.v.set 1 r1).set 2 r2, masks := masks, vl := vl }

/-- The first `n` elements of a v register after an instruction. -/
def elements (t : ETy) (n : Nat) (r : BitVec 5) (i : Instr) (s : State) : List Word :=
  elemsOf t n ((curCtx (after i s)).v[r.toNat]'r.isLt).data

def starts (s : State) (ops : List Opnd) (d : Res Unit) (same : Bool) (src : List VSrc) : Bool :=
  okRes (vecStart s ops (.ok ()) d same src)

def srcA (a : Spec) (acc : ETy → Bool) : VSrc := ⟨opA .vsrc a, acc⟩
def srcB (b : Spec) (acc : ETy → Bool) : VSrc := ⟨opB .vsrc b, acc⟩
def srcC (c : Spec) (acc : ETy → Bool) : VSrc := ⟨opC .vsrc c, acc⟩

def intState : State := withVregs (regOf .i32 [1, 2, 3, 4]) (regOf .i32 [5, 6, 7, 8]) [] 4
def f32State : State := withVregs (regOf .f32 [0x3F800000, 0x40000000]) (regOf .f32 [0x3F800000, 0x40800000]) [] 2

theorem met_vector_start : operandsReady intState [opD .vreg v3, opA .vsrc v1, opB .vsrc (.imm 1)] = true ∧
    srcTag (curCtx intState) [opD .vreg v3, opA .vsrc v1, opB .vsrc (.imm 1)] .i32 (srcA v1 tagIF) = .i32 := by decide +kernel
/-- One, two and three sources; integer, float and any tags; a w queue and an immediate. -/
theorem met_element_wise : starts intState [opD .vreg v3, opA .vsrc v1] (.ok ()) true [srcA v1 tyInt] = true ∧
    starts f32State [opD .vreg v3, opA .vsrc v1] (.ok ()) true [srcA v1 tagFLT] = true ∧
    starts intState [opD .vreg v3, opA .vsrc v1, opB .vsrc (.imm (-32))] (.ok ()) true [srcA v1 tagIF, srcB (.imm (-32)) tagIF] = true ∧
    starts f32State [opD .vreg v1, opA .vsrc v1, opB .vsrc v2, opC .vsrc v1] (.ok ()) true
      [srcA v1 tagIF, srcB v2 tagIF, srcC v1 tagIF] = true := by decide +kernel
theorem met_vector_result : (regOf .i32 [1]).data.length = 1024 ∧ 256 * elemBytes .i32 ≤ 1024 ∧
    (slotAt intState 0).satthr = 0 ∧ intState.evq = [] ∧ eventReady intState 0 = true := by decide +kernel
/-- Every slice free; the first slice of the pool taken; groups of four below and above it. -/
theorem met_vector_configuration : (let s := stateWith { ctxWith [] with slices := 0 }
    let t := { s with ctxs := [(0, { ctxWith [] with slices := 0 }), (1, ctxWith [])] }
    operandsReady s [opD .sdst d3] = true ∧ operandsReady t [opD .sdst d3] = true ∧ (curCtx t).slices = 0 ∧
    slicesTaken s (poolOfCore 0) none = [] ∧ slicesTaken t (poolOfCore 0) none = [(0, 1)] ∧ (tiny []).slots.length = 1 ∧
    okRes (vectorReady (tiny [])) = true ∧ (curCtx (tiny [])).slices = 1) ∧
    operandsReady (tiny [0, 5]) [opD .sdst d3, opA .ssrc a1] = true ∧ operandsReady (tiny []) [opD .vreg v1] = true := by
  decide +kernel
theorem met_mask_stack : starts intState [opD .mName .m, opA .vsrc v1] (.ok ()) true [srcA v1 tyInt] = true ∧
    starts intState [opD .mName .m] (.ok ()) true [] = true ∧
    starts (withVregs (regOf .i32 []) (regOf .i32 []) (List.replicate 8 1) 4) [opD .mName .m, opA .vsrc v1] (.ok ()) true
      [srcA v1 tyInt] = true ∧
    starts intState [opD .vreg v3, opA .mName .m] (.ok ()) true [] = true ∧
    operandsReady intState [opD .vreg v3, opA .mName .m] = true := by decide +kernel
theorem met_vector_compare : starts f32State [opD .mName .m, opA .vsrc v1, opB .vsrc v2] (.ok ()) true
      [srcA v1 tagFLT, srcB v2 tagFLT] = true ∧
    starts intState [opD .vreg v3, opA .vsrc v1, opB .vsrc v2] (.ok ()) true [srcA v1 tagANY, srcB v2 tagANY] = true := by
  decide +kernel
theorem met_vector_moves : starts intState [opD .vreg v3, opA .ssrc a1] (.ok ()) true [] = true ∧
    starts intState [opD .vreg v3, opA .vsrc v1] (.ok ()) true [srcA v1 tagANY] = true ∧
    starts intState [opD .vreg v3, opA .vsrc v1, opB .ssrc a1] (.ok ()) true [srcA v1 tagANY] = true ∧
    starts intState [opD .vreg v3, opA .vsrc v1, opB .vsrc v2] (.ok ()) false [srcA v1 tagANY, srcB v2 tagANY] = true ∧
    2 ^ (7 : BitVec 4).toNat < vlmax (curCtx intState) (elemBytes .i32) := by decide +kernel
theorem met_reductions : starts intState [opD .redDst d3, opA .vsrc v1] (.ok ()) true [srcA v1 tagIF] = true ∧
    starts intState [opD .redDst v3, opA .vsrc v1] (.ok ()) true [srcA v1 tagANY] = true := by decide +kernel
/-- v1 of i32 beside v3 of i64; codes beside activations, with a codebook of width 2. -/
theorem met_conversions : starts intState [opD .vreg v3, opA .vsrc v1] (.ok ()) true [srcA v1 tyNumeric] = true ∧
    starts f32State [opD .vreg v3, opA .vsrc v1, opB .ssrc a1] (.ok ()) true [srcA v1 tagFLT] = true ∧
    (let c := ctxWith []
     let s := stateWith { c with v := c.v.set 3 (regOf .i64 []) }
     starts s [opD .vreg v3, opA .vsrc v1] (dTag s v3 .i64) true [srcA v1 (fun t => t = .i32)] = true ∧
     starts s [opD .vreg v3, opA .vsrc v1, opB .ssrc a1, opC .ssrc a2] (.ok ()) true
       [srcA v1 (fun t => t = .i32 || t = .i64)] = true) ∧
    (let s := withVregs (regOf .cbx [0, 1]) (regOf .i8 [1, 2]) [] 2
     starts s [opD .vreg v3, opA .vsrc v1, opB .vsrc v2, opC .ssrc (.x false 0)] (dTag s v3 .i32) false
       [srcA v1 (fun t => t = .cbx), srcB v2 (fun t => t = .i8)] = true ∧
     (slotOfCore s 0).b.toNat * (8 : BitVec 4).toNat ≤ 8 ∧ 0 + (8 : BitVec 4).toNat ≤ vlmax (curCtx s) 1) := by decide +kernel
theorem met_selection : (let s := withVregs (regOf .i32 []) (regOf .i32 []) [] 256
    vlEff (curCtx s) [.i32] % 32 = 0 ∧
    starts s [opD .vreg v3, opA .vsrc v1, opB .vreg v2] (.ok ()) true [srcA v1 tyNumeric] = true ∧
    starts s [opD .vreg v3, opA .vsrc v1, opB .vreg v2, opC .ssrc (.imm 31)] (.ok ()) true [srcA v1 tyNumeric] = true ∧
    31 ≤ vlmax (curCtx s) 4) := by decide +kernel

theorem test_vadd_masked : elements .i32 4 1 (.vadd true v1 v1 v2)
    (withVregs (regOf .i32 [1, 2, 3, 0xFFFFFFFF]) (regOf .i32 [5, 6, 7, 8]) [0xA] 4) = [1, 8, 3, 7] := by decide +kernel
/-- The example of Chapter 6: `vneg.m v2, v1` under the mask a < 0. -/
theorem test_vneg_masked : elements .i32 3 2 (.vneg true v2 v1)
    (withVregs (regOf .i32 [0xFFFFFFFE, 5, 0x80000000]) (regOf .i32 [0, 0, 0]) [0x5] 3) = [2, 0, 0x80000000] := by decide +kernel
theorem test_vmulh_signed : elements .i32 1 3 (.vmulh false v3 v1 v2)
    (withVregs (regOf .i32 [0xFFFFFFFF]) (regOf .i32 [2]) [] 1) = [0xFFFFFFFF] := by decide +kernel
theorem test_vsar_unsigned_tag : elements .n8 1 3 (.vsar false v3 v1 v2)
    (withVregs (regOf .n8 [0x80]) (regOf .n8 [1]) [] 1) = [0xC0] := by decide +kernel
theorem test_vector_tag_mismatch : faultCode (.vadd false v3 v1 v2)
    (withVregs (regOf .i32 [1]) (regOf .n32 [1]) [] 1) = some 0x03 := by decide +kernel
theorem test_no_slices : faultCode (.vadd false v3 v1 v2) (stateWith { ctxWith [] with slices := 0 }) = some 0x0E := by
  decide +kernel
theorem test_vtag_reserved : faultCode (.vtag v1 15) intState = some 0x02 := by decide +kernel
theorem test_mpush_ands_top : (curCtx (after (.mpush .m v1)
    (withVregs (regOf .i32 [1, 0, 1, 1]) (regOf .i32 []) [0x6] 4))).masks = [0x4, 0x6] := by decide +kernel
theorem test_minv_below : (curCtx (after (.minv .m) (withVregs (regOf .i32 []) (regOf .i32 []) [0x4, 0x6] 4))).masks =
    [0x2, 0x6] := by decide +kernel
theorem test_mask_depth : faultCode (.mpush .m v1) (withVregs (regOf .i32 []) (regOf .i32 []) (List.replicate 8 1) 4) =
    some 0x0D ∧ faultCode (.mpop .m) intState = some 0x0D := by decide +kernel
theorem test_vcmp_pushes : (curCtx (after (.vcmpLt .m v1 (.imm 3)) intState)).masks = [0x3] := by decide +kernel
theorem test_vsel : elements .i32 4 3 (.vsel v3 v1 v2) (withVregs (regOf .i32 [1, 2, 3, 4]) (regOf .i32 [5, 6, 7, 8]) [0x9] 4) =
    [1, 6, 7, 4] := by decide +kernel
theorem test_viota : elements .i32 3 3 (.viota 5 false v3 a1) intState = [3, 4, 5] := by decide +kernel
theorem test_vxch : elements .i32 4 3 (.vxch false 0 v3 v1) intState = [2, 1, 4, 3] := by decide +kernel
theorem test_vslide : elements .i32 4 3 (.vslideUp false v3 v1 a2) intState = [0, 0, 1, 2] ∧
    elements .i32 4 3 (.vslideDn false v3 v1 a2) intState = [3, 4, 0, 0] := by decide +kernel
theorem test_vred_add : result (.vredAdd false d3 v1) (withVregs (regOf .i32 [1, 0xFFFFFFFF, 5]) (regOf .i32 []) [] 3) = 5 := by
  decide +kernel
theorem test_vred_no_active : result (.vredMin true d3 v1) (withVregs (regOf .i32 [1]) (regOf .i32 []) [0] 1) = 0x7FFFFFFF := by
  decide +kernel
theorem test_vscan : elements .i32 4 3 (.vscanAdd false v3 v1) intState = [1, 3, 6, 10] := by decide +kernel
theorem test_vcvt_ties_away : elements .i8 3 3 (.vcvt 1 false v3 v1)
    (withVregs (regOf .f32 [0x40200000, 0xC0600000, 0x43800000]) (regOf .i32 []) [] 3) = [3, 0xFC, 0x7F] := by decide +kernel
theorem test_vtopk : elements .i32 2 3 (.vtopk false v3 v1 v2 (.imm 2))
    (withVregs (regOf .i32 [7, 9, 9, 1]) (regOf .i32 []) [] 4) = [9, 9] ∧
    elements .n32 2 2 (.vtopk false v3 v1 v2 (.imm 2)) (withVregs (regOf .i32 [7, 9, 9, 1]) (regOf .i32 []) [] 4) = [1, 2] := by
  decide +kernel
theorem test_vacq_takes_slices : (let c := curCtx (after (.vacq d3 2) (stateWith { ctxWith [] with slices := 0 }))
    (c.slices, c.first, c.vl, c.masks.length)) = (2, 0, 0, 0) := by decide +kernel

/-! ## Memory instructions -/

/-- A checked access, and the target it answers. -/
def targetOf (s : State) (va : Word) (n : Need) : Option Target := match access s va 0 n with | .ok (_, h) => some h.tgt | _ => none

/-- The premises of a load: address checks and data. -/
def loads (s : State) (va : Word) (n : Nat) (vec : Bool) : Bool :=
  okRes (do
    let (t, h) ← access s va 0 needR
    loadBytes t h va 0 n vec)

def swaps (s : State) (va : Word) (n : Nat) : Bool :=
  okRes (do
    let (t, h) ← access s va 0 needRW
    rmw t h va n .swap 5 0 (fun o => amoOp .swap n o 5 0))

/-- The last doubleword of a page and the first; a page of the host has no data yet. -/
theorem met_scalar_loads : operandsReady (tiny [0, 0x10000]) [opD .sdst d3, opA .ssrc a1, opB .ssrc (.imm 31)] = true ∧
    okRes (mayAccess (tiny []) .s) = true ∧ loads (tiny []) 0x10000 8 false = true ∧ loads (tiny []) 0x1FFF8 8 false = true ∧
    loads (tiny []) 0x20000 1 false = true ∧ loads (tiny []) 0x2FFF8 8 true = true ∧
    loads (tiny []) 0x30000 8 false = false := by decide +kernel
theorem met_load_data : targetOf (tiny []) 0x10000 needR = some (.scratch 0x8000000000) ∧
    targetOf (tiny []) 0x20000 needR = some (.device 0x100000) ∧ cutOff (tiny []) 0 (.device 0x100000) = false ∧
    hostOwns (homeLine (tiny []) 0x2000 (some 0)) 0x2000 = false ∧ poisoned (homeLine (tiny []) 0x2000 (some 0)) 0x100000 = false ∧
    ownDisj (tiny []) 0x100000 8 = none := by decide +kernel
theorem met_scalar_stores : operandsReady (tiny []) [opD .ssrc (.imm 7), opA .ssrc a1, opB .ssrc (.x false 0)] = true ∧
    targetOf (tiny []) 0x1FFF8 needW = some (.scratch 0x800000FFF8) ∧ targetOf (tiny []) 0x2FFFF needW = some (.device 0x10FFFF) ∧
    0x10FFFF % 128 + 1 ≤ 128 := by decide +kernel
theorem met_atomics : swaps (tiny []) 0x10000 8 = true ∧ swaps (tiny []) 0x1FFFC 4 = true ∧
    targetOf (tiny []) 0x20000 needRW = some (.device 0x100000) ∧ coreWtOver (tiny []) 0 0x100000 8 = false ∧
    homeHolds (tiny []) (curAsker (tiny [])) 0 0 0x2000 true = none ∧ poisoned (tiny []) 0x100000 = false ∧
    operandsReady (tiny []) [opD .sdst d3, opA .ssrc a1, opB .ssrc a2, opC .ssrc (.imm 0)] = true := by decide +kernel
/-- A copy of a host line in the core's L1, and bytes read ahead; neither serves the other's address. -/
theorem met_host_copy : (let hl : HostLine := ⟨List.replicate 128 7, false, [0], [0], none⟩
    let s := { tiny [] with hostdir := [(lineOf 0x1000000000000, hl)] }
    targetOf s 0x30000 needR = some (.host 0x1000000000000) ∧ ownAddOver s 0x1000000000000 8 = false ∧
    hostLineAt s (lineOf 0x1000000000000) = some hl ∧ hl.holders.contains (cacheFor s false) = true) ∧
    (let s := modSeq (tiny []) (fun q => { q with ahead := [(0x100000, [1, 2, 3, 4])] })
     aheadOf s 0x100002 2 = some [3, 4] ∧ aheadOf s 0x100002 4 = none ∧ s.cur.strm = none) := by decide +kernel
theorem met_facet_reductions : operandsReady (tiny []) [opA .ssrc a1, opB .ssrc (.imm 1)] = true ∧
    targetOf (tiny []) 0x20000 needW = some (.device 0x100000) ∧ coreWtOver (tiny []) 0 0x100000 4 = false ∧
    localPartial (tiny []) 0 0x2000 13 = none ∧ homeHolds (tiny []) (curAsker (tiny [])) 0 0 0x2000 true = none ∧
    (match facetGrant (tiny []) 0 0x2000 13 (some 0) with | .granted _ => true | _ => false) = true ∧
    targetOf (tiny []) 0x10000 needW = some (.scratch 0x8000000000) ∧
    (match access (tiny []) 0x40000 0 needW with | .ok (_, h) => leafCL h.leaf == 2 | _ => false) = true := by decide +kernel
theorem met_hints : operandsReady (tiny []) [opA .ssrc a1, opB .ssrc (.x false 0)] = true ∧ okRes (access (tiny []) 0x20000 0 needR) = true ∧
    faultsWith (access (tiny []) 0x50000 0 needR) 0x05 = true ∧ (tiny []).wts = [] ∧
    homeHolds (tiny []) (curAsker (tiny [])) 0 0 0x2000 true = none ∧ cutOff (tiny []) 0 (.device 0x100000) = false := by decide +kernel
theorem met_address_checks : okRes (access (tiny []) 0x2FFFF 7 needRW) = true ∧ isFaceted (dirAt (tiny []) 0) = false ∧
    okRes (access (tiny []) 0x1000000000000 0 needR) = false := by decide +kernel

/-- Scratchpad bytes 1, 2, 3, … at VA 0x10000. -/
def withBytes (l : List Word) : State :=
  { tiny l with mem := memWrite [] 0x8000000000 ((List.range 64).map (fun i => BitVec.ofNat 8 (i + 1))) }

theorem test_ld_little_endian : result (.ld 2 d3 a1 (.x false 0) 4) (withBytes [0, 0x10000]) = 0x08070605 ∧
    result (.ld 1 d3 a1 a2 (-2)) (withBytes [0, 0x10000, 2]) = 0x0403 := by decide +kernel
theorem test_ld_signed : result (.ldS 0 d3 a1 (.x false 0) 0)
    { tiny [0, 0x10000] with mem := [(0x8000000000, 0x80)] } = 0xFFFFFFFFFFFFFF80 := by decide +kernel
theorem test_ld_misaligned : faultCode (.ld 3 d3 a1 (.x false 0) 4) (withBytes [0, 0x10000]) = some 0x04 ∧
    faultCode (.ld 2 d3 a1 (.x false 0) 4) (withBytes [0, 0x10000]) = none := by decide +kernel
theorem test_ld_absent_page : ((curCtx (after (.ld 3 d3 a1 (.x false 0) 0) (tiny [0, 0x50000]))).fault.map
    (fun f => (f.code, f.addr, f.lvl))) = some (0x05, 0x50000, 3) := by decide +kernel
theorem test_st_scratch : (after (.st 1 a2 a1 (.x false 0) 2) (tiny [0, 0x10000, 0x1234])).mem =
    [(0x8000000002, 0x34), (0x8000000003, 0x12)] := by decide +kernel
/-- A store to device memory is on its way; its own core reads it at once, and memory holds it once it has reached home. -/
theorem test_st_device : (let s := after (.st 3 a2 a1 (.x false 0) 0) (tiny [0, 0x20000, 77])
    (s.mem, s.wts.length, coreRead s 0 0x100000 2, (after (.writeThrough 0) s).mem, (after (.writeThrough 0) s).wts.length)) =
    ([], 1, [77, 0], [(0x100000, 77)], 0) := by decide +kernel
theorem test_amo_add : (let s := after (.amoAdd d3 a1 a2 0) { tiny [0, 0x10000, 2] with mem := memWrite [] 0x8000000000 (leBytes 4 0xFFFFFFFF) }
    ((curSeq s).l[0], s.mem)) = (BitVec.allOnes 64, [(0x8000000000, 1)]) := by decide +kernel
theorem test_amo_cas_unequal : (let s := after (.amoCas d3 a1 a2 (.imm 9) 1) { tiny [0, 0x10000, 2] with mem := [(0x8000000000, 5)] }
    ((curSeq s).l[0], s.mem)) = (5, [(0x8000000000, 5)]) := by decide +kernel
theorem test_fence_empty : (curSeq (after (.fence 0 31 3) (tiny []))).fences = [] ∧
    (curSeq (after (.fence 1 3 3) (tiny []))).fences = [⟨1, 3, 3, 0⟩] := by decide +kernel
theorem test_prefetch_never_faults : faultCode (.pf a1 (.x false 0) 0) (tiny [0, 0x50000]) = none := by decide +kernel
theorem test_red_makes_partial : (let s := after (.redIadd32 a1 a2) (tiny [0, 0x20004, 9])
    (s.mem, s.partials.map (fun e => (e.2.tag, e.2.bytes.getD 4 0, e.2.touched)))) = ([], [(1, 9, 0xF0)]) := by decide +kernel

/-- The start, the checks and the data of a vector access. -/
def vecLoads (s : State) (w : Nat) (ad : List (Nat × Word)) : Bool :=
  okRes (do
    let (u, l) ← checkElems w needR s ad
    loadElems w u l)

theorem met_vector_loads : starts (tiny [0, 0x10000, 4]) [opD .vldst v3, opA .ssrc a1, opB .ssrc a2] (.ok ()) true [] = true ∧
    starts (onA (tiny [0, 0x10000, 4])) [opD .vldst (.w 0), opA .ssrc a1, opB .ssrc a2] (.ok ()) true [] = true ∧
    starts (stateWith { ctxWith [0, 0x10000] with vl := 0 }) [opD .vldst v3, opA .ssrc a1, opB .ssrc a2] (.ok ()) true [] = true ∧
    starts (stateWith { ctxWith [0, 0x10000] with vl := 0 }) [opD .vreg v3, opA .ssrc a1, opB .ssrc a2]
      (dTag (stateWith { ctxWith [] with vl := 0 }) v3 .i32) true [] = true ∧
    okRes (mayAccess (tiny []) .v) = true ∧ vecLoads (tiny []) 4 (unitAddrs .i32 0x1FFF0 4) = true ∧
    vecLoads (tiny []) 1 (unitAddrs .f4e2m1 0x10000 3) = true ∧ vecLoads (tiny []) 4 [(0, 0x20000)] = true ∧
    vecLoads (tiny []) 4 (activeAddrs [true, false, true] (fun j => 0x10000 + BitVec.ofNat 64 j * 4)) = true ∧
    faultsWith (checkElems 4 needR (tiny []) (activeAddrs [true] (fun _ => 0x50000))) 0x05 = true ∧
    okRes (firstFault 4 (tiny []) (activeAddrs [true, true] (fun j => 0x1FFFC + BitVec.ofNat 64 (j * 0x30004))) true) = true ∧
    starts intState [opD .vreg v3, opA .ssrc a1, opB .vreg v2] (.ok ()) true [] = true ∧
    ([(0, 0x50000), (1, 0x10000)].filterMap (elemFault (tiny []) 4 needR)).length = 1 := by decide +kernel
/-- A register of another tag than the store's, or than its index vector's. -/
theorem met_wrong_tags : (curCtx intState).slices ≠ 0 ∧ okRes (vectorReady intState) = true ∧ intState.cur.side = .x ∧
    operandsReady intState [opD .vreg v3, opA .ssrc a1, opB .ssrc a2] = true ∧
    operandsReady intState [opD .vreg v3, opA .ssrc a1, opB .vreg v2] = true ∧ memType .i8 = true ∧
    (vregOf (curCtx intState) v3).tag ≠ .i8 ∧ (vregOf (curCtx intState) v2).tag ≠ .i64 := by decide +kernel
theorem met_vector_stores : starts intState [opD .vreg v3, opA .ssrc a1, opB .ssrc a2] (dTag intState v3 .i32) true [] = true ∧
    starts intState [opD .vreg v3, opA .ssrc a1, opB .vreg v2] (dTag intState v3 .i32) true [] = true ∧
    okRes (checkElems 4 needW (tiny []) (unitAddrs .i32 0x1FFF0 4)) = true ∧
    (let s := withVregs (regOf .f4e2m1 [1, 2, 3]) (regOf .i32 []) [] 3
     starts s [opD .vreg v1, opA .ssrc a1, opB .ssrc a2] (dTag s v1 .f4e2m1) true [] = true ∧
     (match checkElems 1 needW s (unitAddrs .f4e2m1 0x10000 3) with
      | .ok (u, l) => (l.getLast?.map (fun e => okRes (storeNibble (storeRuns u (coalesce
          (List.zipWith (fun e v => (e.hit, [v])) l.dropLast (packNibbles [1, 2, 3])))) e 3))).getD false
      | _ => false) = true) ∧
    swaps intState 0x10000 4 = true ∧ loads intState 0x10000 4 true = true := by decide +kernel

theorem test_vld_elements : elements .i16 3 3 (.vld 3 v3 a1 (.x false 0) 2)
    (let s := withBytes [0, 0x10000]; { s with ctxs := [(0, { ctxWith [0, 0x10000] with vl := 3 })] }) = [0x0403, 0x0605, 0x0807] := by
  decide +kernel
theorem test_vlds_stride : elements .i8 4 3 (.vlds 1 false v3 a1 a2) (withBytes [0, 0x10000, 5]) = [1, 6, 11, 16] := by decide +kernel
theorem test_vld_pushes_w_on_a : (wOf (curCtx (after (.vld 5 (.w 0) a1 (.x false 0) 0) (onA (withBytes [0, 0x10000])))) 0).length = 1 := by
  decide +kernel
theorem test_vst_frame : (after (.vst 1 v1 a1 (.x false 0) 0)
    (let c := ctxWith [0, 0x10002]
     stateWith { c with v := c.v.set 1 (regOf .i8 [9, 8, 7]), vl := 2 })).mem = [(0x8000000002, 9), (0x8000000003, 8)] := by decide +kernel
theorem test_vst_tag : faultCode (.vst 1 v1 a1 (.x false 0) 0) (tiny [0, 0x10000]) = some 0x03 := by decide +kernel
theorem test_vldff_shortens : (let s := after (.vldff 5 false v3 a1 (.x false 0)) (tiny [0, 0x4FFF8])
    ((curCtx s).vl, faultCode (.vldff 5 false v3 a1 (.x false 0)) (tiny [0, 0x4FFF8]))) = (2, none) := by decide +kernel
theorem test_vfas : (let s := stateWith { ctxWith [0, 0x10000] with vl := 3 }
    let t := after (.vfas 5 false v3 a1 v2) { s with mem := [(0x8000000000, 10)] }
    (elemsOf .i32 3 ((curCtx t).v[3]).data, t.mem)) = ([10, 11, 13], [(0x8000000000, 16)]) := by decide +kernel

/-! ## Matrix engine, tiles, handles -/

/-- A tile: type, rows, row length, base, state; `sn` is given for a plane tile. -/
def tileWith (ty : ETy) (rows rlen base : Nat) (st : TileSt) (sn : Option (BitVec 2)) : Tile :=
  { st := st, defined := true, ab := false, ty := ty, pf := sn.isSome, mx := false, sn := sn.getD 0, nr := 0, base := base,
    rows := rows, rlen := rlen }

/-- t1 to t4 as given; t5 is undefined. -/
def withTiles (t1 t2 t3 t4 : Tile) : State :=
  let c := ctxWith [0, 0x10000, 0x10040, 1, 0x10000]
  { stateWith { c with tiles := (((c.tiles.set 1 t1).set 2 t2).set 3 t3).set 4 t4, acc0 := ⟨.i32, []⟩ } with
    mem := memWrite [] 0x8000008000 ((List.range 32).flatMap (fun _ => [0x0F, 0, 0, 0])) }

/-- A and B tiles of i8, dense and sparse. -/
def mmState : State := withTiles (tileWith .i8 32 32 0 .ready none) (tileWith .i8 1 32 0x1000 .ready (some 0))
  (tileWith .i8 1 32 0x2000 .ready (some 1)) (tileWith .i8 32 32 0x3000 .empty none)

/-- The premises of `mm` and `mms` at one state. -/
theorem met_mm : operandsReady mmState [opD .acc (.acc 0), opA .tile (.t 1), opB .tile (.t 2)] = true ∧
    mmTypes mmState .i8 .i8 .i32 false false = true ∧ (accAt (curCtx mmState) 0).tag = .i32 ∧
    (let A := tileOf (curCtx mmState) 1
     let B := tileOf (curCtx mmState) 2
     A.rows = 32 ∧ A.rlen = 32 ∧ A.pf = false ∧ tileInside A = true ∧ B.pf = true ∧ B.rlen = A.rlen ∧ tileInside B = true ∧
     A.st = .ready ∧ B.st = .ready ∧ B.sn = 0 ∧ (tileOf (curCtx mmState) 3).sn = 0 + 1) ∧
    okRes (needTile (curCtx mmState) (.t 3)) = true ∧ tabGet mmState.mx (curCore mmState) = none ∧
    tilePoison mmState (tileOf (curCtx mmState) 1) = none ∧ tilePoison mmState (tileOf (curCtx mmState) 2) = none := by
  decide +kernel

def squareState : State := withTiles (tileWith .f32 32 32 0xFF000 .ready none) (tileWith .f32 32 32 0 .empty none)
  (tileWith .f32 32 32 0 .draining none) (tileWith .f32 32 32 0 .filling none)

/-- A tile that ends with the scratchpad is inside it. -/
theorem met_matrix_moves : operandsReady squareState [opD .acc (.acc 1), opA .tile (.t 1)] = true ∧
    operandsReady squareState [opD .tile (.t 2), opA .acc (.acc 0)] = true ∧ operandsReady squareState [opD .acc (.acc 1)] = true ∧
    tileInside (tileOf (curCtx squareState) 1) = true ∧ tileInside { tileOf (curCtx squareState) 1 with base := 0xFF001 } = false ∧
    tilePoison squareState (tileOf (curCtx squareState) 1) = none ∧
    (accAt (curCtx squareState) 0).tag ≠ .none ∧ tyOfCode 5 = .i32 ∧ tyOfCode 13 = .f32 := by decide +kernel

def planeState : State := withTiles (tileWith .i8 32 64 0 .ready none) (tileWith .i8 32 72 0x1000 .empty none)
  (tileWith .i8 32 4 0x2000 .ready none) (tileWith .n32 32 1 0x8000 .ready none)

/-- Two dense groups of i8 fill exactly 2,304 bytes; one sparse group of four has a mask of four bits for each row. -/
theorem met_tpln : operandsReady planeState [opD .tile (.t 2), opA .tile (.t 1)] = true ∧ bType .i8 = true ∧
    (64 / 32) * blockBytes .i8 0 false ≤ tileSize (tileOf (curCtx planeState) 2) ∧
    tileInside (tileOf (curCtx planeState) 2) = true ∧ tileInside (tileOf (curCtx planeState) 1) = true ∧
    operandsReady planeState [opD .tile (.t 2), opA .tile (.t 3), opB .tile (.t 4)] = true ∧
    1 * blockBytes .i8 (0 + 1) false ≤ tileSize (tileOf (curCtx planeState) 2) ∧
    tilePoison planeState (tileOf (curCtx planeState) 1) = none ∧ tilePoison planeState (tileOf (curCtx planeState) 3) = none ∧
    tilePoison planeState (tileOf (curCtx planeState) 4) = none ∧
    (∀ r ∈ maskRows planeState 0 (tileOf (curCtx planeState) 4) 1, ∀ m ∈ r, bitCount32 m = 4) := by decide +kernel

theorem test_mm_needs_tag : faultCode (.mm 1 1 5 false false (.acc 1) (.t 1) (.t 2)) mmState = some 0x03 := by decide +kernel
theorem test_accumulate_saturates : accStep false 0x7FFFFFFF [fvOfInt 1] = (0x7FFFFFFF, 1) ∧
    accStep false 5 (groupTerms [fvOfInt 3, fvOfInt (-2)] [some (fvOfInt 4), none]) = (17, 0) := by decide +kernel
theorem test_accumulate_f32 : accStep true 0x3F800000 [fvOfInt 1, fvOfInt 2] = (0x40800000, 0) := by decide +kernel
theorem test_mld_completes : (let s := after (.mld (.acc 1) (.t 1)) { squareState with
      mem := memWrite [] (scratchOf 0 + 0xFF004) (leBytes 4 0x40000000) }
    (accEl (accAt (curCtx (after (.matrixInstructionComplete 0) s)) 1) 1, (after (.matrixInstructionComplete 0) s).mx)) =
    (0x40000000, []) := by decide +kernel
/-- A soft error in a line of the tile faults MEMORY_UNCORRECTABLE (R165). -/
theorem test_mld_poisoned : faultCode (.mld (.acc 1) (.t 1))
    (softError squareState (lineOf (tilePa 0 (tileOf (curCtx squareState) 1)) + 3)) = some 0x11 := by decide +kernel
theorem test_tile_undefined : faultCode (.mld (.acc 1) (.t 5)) squareState = some 0x09 := by decide +kernel

/-- A descriptor of a tile of 32 rows of 32 bf16 at offset 0x400: base, rows at 32, row length at 64, type at 88. -/
def tileDesc (rows : Nat) : Nat := 0x400 + rows * 2 ^ 32 + 32 * 2 ^ 64 + 11 * 2 ^ 88

def descState (n : Nat) : State := { squareState with mem := memWrite [] 0x8000000000 (leBytes 16 n) }

theorem met_tdef : operandsReady (descState (tileDesc 32)) [opD .tile (.t 5), opA .ssrc a1] = true ∧
    (match loadRange 2 (afterReads (descState (tileDesc 32)) [opD .tile (.t 5), opA .ssrc a1]) 0x10000 16 with
     | .ok (_, l) => tileDescOk (leNat l) false | _ => false) = true ∧
    tileDescOk (tileDesc 0) false = false ∧ (tileOf (curCtx squareState) 3).st ≠ .empty := by decide +kernel
/-- Undefined, ready, empty and draining tiles. -/
theorem met_tiles : operandsReady squareState [opD .tile (.t 5)] = true ∧ (tileOf (curCtx squareState) 5).defined = false ∧
    tileStillRead squareState (tileOf (curCtx squareState) 1) = false ∧
    operandsReady squareState [opD .sdst d3, opA .tile (.t 1)] = true ∧ (tileOf (curCtx squareState) 1).st = .ready ∧
    operandsReady squareState [opD .sdst d3, opA .tile (.t 2), opB .ssrc a1] = true ∧ (tileOf (curCtx squareState) 2).st = .empty ∧
    pending squareState 0 .x 0 3 3 squareState.ids = false := by decide +kernel
theorem test_tdef : (tileOf (curCtx (after (.tdef false (.t 5) a1) (descState (tileDesc 32)))) 5) =
    tileWith .bf16 32 32 0x400 .empty none := by decide +kernel
theorem test_tdef_rows : faultCode (.tdef false (.t 5) a1) (descState (tileDesc 0)) = some 0x02 := by decide +kernel
theorem test_tstat_undefined : result (.tstat d3 (.t 5)) squareState = 0 ∧ faultCode (.tstat d3 (.t 5)) squareState = none ∧
    result (.tstat d3 (.t 1)) squareState = 0xD6 := by decide +kernel
theorem test_tsetl_c : (let q := curSeq (after (.tsetlC d3 (.t 2) (.imm 31)) squareState)
    (q.rl, q.tl, q.l[0])) = (32, 31, 31) := by decide +kernel
theorem test_twait_aborted : result (.twaitR d3 (.t 1)) (withTiles { tileWith .f32 32 32 0 .empty none with ab := true }
    Tile.undefined Tile.undefined Tile.undefined) = BitVec.allOnes 64 := by decide +kernel

theorem met_translations : operandsReady (tiny []) [opA .ssrc a1] = true ∧ operandsReady (tiny []) [] = true ∧
    pending (tiny []) 0 .x 0 1 5 0 = false ∧ scopeBusy (tiny []) 0 0 5 = false ∧
    scopeCut (tiny []) 0 0 5 = false ∧
    scopeBusy { tiny [] with asks := [(3, ⟨.fetch 0 .a, 0x01, 0, 0, 0, 0⟩)] } 0 0 5 = true ∧ coresShare 3 0 95 = true ∧
    coresShare 3 0 96 = false ∧ coresShare 4 0 96 = true := by decide +kernel
theorem test_tlbi : (tlbOf (after (.tlbiVa a1 3) (tiny [0, 0x2FFFF])) 0).length = 3 ∧
    tlbOf (after (.tlbiAll 5) (tiny [])) 0 = [] := by decide +kernel

/-- A handle descriptor: stack 0, readable and writable, rows 63 to 63 of its region. -/
def handleDesc (first nrow : Nat) : Nat := 2 ^ 3 + 2 ^ 4 + first * 2 ^ 16 + nrow * 2 ^ 32

def handleState (n : Nat) : State := { tiny [0, 0x10000, 7] with mem := memWrite [] 0x8000000000 (leBytes 16 n) }

/-- The last row of the region, and one past it; a slot beside the one in use. -/
theorem met_hset : operandsReady (handleState (handleDesc 63 1)) [opD .sdst d3, opA .ssrc a1, opB .ssrc a2] = true ∧
    (match loadRange 2 (handleState (handleDesc 63 1)) 0x10000 16 with
     | .ok (_, l) => leNat l == handleDesc 63 1 | _ => false) = true ∧
    bankRegion (partAt (tiny []) 0) 0 = (0x4000, 0x4040) ∧ (handleAt (tiny []) 0 7).valid = false := by decide +kernel
theorem met_hinv : currentHandle (tiny []) 0 0x10000 = true ∧ (handleAt (tiny []) 0 0).pin = 0 ∧ currentHandle (tiny []) 0 0x20000 = false ∧
    (∀ m, (curSeq (tiny [])).status ≠ .pinWait m) ∧
    (seqOf (ctxAt (stateWith { ctxWith [] with x := { seqWith [] with status := .pinWait 0 } }) 0) .x).status = .pinWait 0 := by
  refine ⟨by decide +kernel, by decide +kernel, by decide +kernel, fun m h => ?_, by decide +kernel⟩
  cases h
theorem test_hset : (let s := after (.hset d3 a1 a2) (handleState (handleDesc 63 1))
    ((curSeq s).l[0], (handleAt s 0 7).lo, (handleAt s 0 7).nrow)) = (0x10007, 0x403F, 1) := by decide +kernel
theorem test_hset_region : faultCode (.hset d3 a1 a2) (handleState (handleDesc 63 2)) = some 0x06 := by decide +kernel
theorem test_hinv_stale : faultCode (.hinv a1) (tiny [0, 0x20000]) = some 0x08 ∧
    (let h := handleAt (after (.hinv a1) (tiny [0, 0x10000])) 0 0
     (h.valid, h.gen)) = (false, 2) := by decide +kernel

/-! ## Engine, collective, KV and bank commands -/

/-- x1, x2 addresses, x3 a count, x4 an offset, x5 the handle. -/
def engineState (l : List Word) (mem : List Byte) : State :=
  { withTiles (tileWith .i32 4 8 0 .empty none) (tileWith .f32 4 8 0x400 .ready none) (tileWith .bf16 1 64 0x800 .empty none)
      (tileWith .i32 1 8 0xC00 .empty none) with
    mem := memWrite [] 0x8000000000 mem
    ctxs := [(0, { curCtx (withTiles (tileWith .i32 4 8 0 .empty none) (tileWith .f32 4 8 0x400 .ready none)
      (tileWith .bf16 1 64 0x800 .empty none) (tileWith .i32 1 8 0xC00 .empty none)) with x := { seqWith l with rl := 8 } })] }

def e0 : State := engineState [0, 0x10000, 0x10040, 32, 0, 0x10000] []

/-- Between addresses, from and to a handle's region at its end, and into a tile of exactly its size; by rows; drained. -/
theorem met_cpy : okRes (engineReady e0 false) = true ∧ okRes (engineReady e0 true) = true ∧
    operandsReady e0 [opD .tileOrSrc a1, opA .ssrc a2, opB .ssrc d3, opC .ssrc (.x false 4)] = true ∧
    operandsReady e0 [opD .tileOrSrc (.t 1), opA .ssrc a2, opB .ssrc d3] = true ∧
    spanOf .i32 32 = tileSize (tileOf (curCtx e0) 1) ∧ currentHandle e0 0 0x10000 = true ∧
    16 * regionRow - 128 + spanOf .i32 32 ≤ (handleAt e0 0 0).nrow * regionRow ∧
    spanOf .i32 (curSeq e0).rl.toNat = tileRowBytes (tileOf (curCtx e0) 1) := by decide +kernel
theorem met_drain : operandsReady e0 [opD .ssrc a1, opA .tile (.t 2), opB .ssrc a2] = true ∧ tyOfCode 9 = .f8e4m3 ∧
    (tileOf (curCtx e0) 2).st = .ready ∧ (tileOf (curCtx e0) 2).ty = .f32 ∧
    (tileWith .f32 4 32 0 .ready none).rlen % 32 = 0 ∧ mxType .f8e4m3 = true := by decide +kernel
theorem test_cpy_queued : (let s := after (.cpy false true 5 5 3 (.t 1) (.x false 5) d3 (.x false 4)) e0
    (s.cmds.length, (tileOf (curCtx s) 1).st, (handleAt s 0 0).pin)) = (1, .filling, 1) := by decide +kernel
theorem test_cpy_size : faultCode (.cpy false false 5 5 3 (.t 1) a2 (.imm 31) (.x false 0)) e0 ≠ none := by decide +kernel
/-- A queued copy of two bytes from 0x10040 to 0x10000, at work in the copy engine of cluster 0. -/
def copyAtWork : State := { e0 with
  mem := memWrite [] 0x8000000040 [5, 6, 7]
  cmds := [(0, ⟨{ curIssuer e0 false 3 none with unit := 2048 }, .cpy (.va 0x10000) (.va 0x10040) 2 .i8 .i8, false, 0, [], 0⟩)] }
theorem test_cpy_moves : (let t := after (.engineCommandComplete 0) copyAtWork
    (memRead t.mem 0x8000000000 3, t.cmds.length)) = ([5, 6, 0], 0) := by decide +kernel

/-- A collective of one rank, with its rank table behind the descriptor. -/
def collState : State := engineState [0, 0x20000, 0x10000, 4, 0x10000]
  (List.replicate 8 0 ++ [1] ++ List.replicate 7 0 ++ leBytes 8 0x10040)

theorem met_coll : operandsReady collState [opD .ssrc a1, opA .ssrc a2, opB .ssrc d3, opC .ssrc (.x false 4)] = true ∧
    (match loadRange 2 collState 0x10000 64 with
     | .ok (u, b) => collDescOk (leNat b) && decide (bitsOf (leNat b) 128 64 = 0x10040) &&
         (match loadRange 2 u 0x10040 4 with | .ok (_, e) => decide (bitsOf (leNat e) 13 19 = 0) | _ => false)
     | _ => false) = true ∧ okRes (collTypes collState 0 2 0 5) = true ∧
    okRes (collTypes collState 3 0 5 13) = true ∧ okRes (collTypes collState 1 0 0 1) = true ∧
    okRes (collTypes collState 2 0 0 1) = true := by
  decide +kernel

/-- A block table whose entry 0 names page 0, a page of bf16 without scales; x3 asks for one row from row 0. -/
theorem met_kvgth : (let s := { engineState [0, 0x10000, 0x10000, 1] [] with parts := [(0, { partWith with kvpool := 0x10000 })] }
    operandsReady s [opD .sdst (.x false 6), opA .tile (.t 3), opB .ssrc a1, opC .ssrc d3] = true ∧
    okRes (kvEntries 0x10000 64 s [0]) = true ∧ (tileOf (curCtx s) 3).rlen = 64 ∧ (tileOf (curCtx s) 3).st = .empty) := by
  decide +kernel
/-- The set 1 of prism data at 0x10000: d = 64, type bf16. -/
theorem met_prism : (let s := engineState [] [0xB0, 1]
    okRes (prismSet { s with parts := [(0, { partWith with prism := 0xFC00 })] } 1 64 .bf16)) = true := by decide +kernel
theorem met_kvapp : (let s := engineState [0, 0x10000, 0, 0x10000] []
    operandsReady s [opA .ssrc a1, opB .ssrc a2, opC .ssrc d3] = true ∧ okRes (checkRange needR 3 s 0x10000 256) = true ∧
    okRes (checkRange needR 2 s 0x10000 8) = true ∧ okRes (checkRange needRW 2 s 0x20000 16) = true ∧
    okRes (checkRange needW 4 s 0x20040 16384) = true) := by decide +kernel

/-! ### Bank commands and their execution -/

/-- x1 the handle, x2 the record's or the codebook's address, x3 a word. -/
def bankState (mem : List Byte) (x3 : Word) (svc : BitVec 2) : State :=
  { engineState [0, 0x10000, 0x10000, x3] mem with svc := svc }

/-- A descriptor: one bank from bank 2047, `ncol` columns, b = g = Gb = 1, tables at 1022; the result i32 where `ot`. -/
def bankDescNat (ncol : Nat) (ot : Bool) : Nat :=
  2047 * 2 ^ 64 + 2 ^ 80 + ncol * 2 ^ 96 + 2 ^ 136 + 2 ^ 140 + 2 ^ 144 + 1022 * 2 ^ 150 + ot.toNat * 2 ^ 160

def recordOf (n : Nat) : List Byte := leBytes 64 n

theorem met_cbld : (let s := bankState (leBytes 32 (0x1234 + 4 * 2 ^ 160)) 63 0
    operandsReady s [opA .ssrc a2, opC .ssrc d3] = true ∧ okRes (bankReady s [0, 1, 2, 3]) = true ∧
    (match loadRange 2 (afterReads s [opA .ssrc a2, opC .ssrc d3]) 0x10000 32 with
     | .ok (_, b) => decide (bitsOf (leNat b) 160 3 = 4) && decide (bitsOf (leNat b) 163 93 = 0) | _ => false) = true ∧
    bitsOf 63 6 2 = 0) := by decide +kernel
/-- At service levels 1 and 2; the last words of program memory; a tile of eight i32 results; no result. -/
theorem met_bank_issue : (let s := bankState (recordOf (bankDescNat 8 true)) (1023 + 2 ^ 16) 1
    operandsReady s [opD .sdst (.x false 6), opA .ssrc a1, opB .ssrc a2, opC .ssrc d3] = true ∧
    operandsReady s [opD .sdst (.x false 6), opA .ssrc a1, opB .ssrc a2, opC .tile (.t 4)] = true ∧
    operandsReady s [opD .sdst (.x false 6), opA .ssrc a1, opB .ssrc a2] = true ∧ currentHandle s 0 0x10000 = true ∧
    (match loadRange 2 s 0x10000 64 with
     | .ok (_, b) => !descReserved (leNat b) && descBanksOk (descOf (leNat b)) && descTableOk (descOf (leNat b)) &&
         descKernelOk (descOf (leNat b)) && decide ((descOf (leNat b)).ncol = 8) && (descOf (leNat b)).ot
     | _ => false) = true ∧ bitsOf (1023 + 2 ^ 16) 0 10 + bitsOf (1023 + 2 ^ 16) 16 11 ≤ 1024 ∧
    okRes (loadRange 40 s 0x10000 4) = true ∧ s.svc = 1 ∧ (bankState [] 0 2).svc ≠ 1 ∧ okRes (bankReady s [0]) = true ∧
    (tileOf (curCtx s) 4).rows * (tileOf (curCtx s) 4).rlen = 8) := by decide +kernel
theorem test_lkac_full_level : (let s := after (.lkac 3 (.x false 6) a1 a2 (.t 4)) (bankState (recordOf (bankDescNat 8 true)) 0 2)
    ((curSeq s).l[0], s.bankCmds.length, (tileOf (curCtx s) 4).st, (handleAt s 0 0).pin)) = (0, 1, .filling, 1) := by decide +kernel
theorem test_lkac_level_1 : (let s := after (.lkac 3 (.x false 6) a1 a2 (.t 4)) (bankState (recordOf (bankDescNat 8 true)) 0 1)
    ((curSeq s).l[0], s.bankCmds.length, (tileOf (curCtx s) 4).st)) = (1, 0, .empty) := by decide +kernel

def bankCmdOf (k : BankKind) : BankCmd :=
  { newBankCmd { (default : Issuer) with iter := 0 } k 0 ⟨true, true, true, 0, 1, 0x4000, 16, 1⟩ 0x10000 with started := false }

def desc1 : BankDesc := descOf (bankDescNat 1 true)

/-- A command `k` on stack 0, started or not, with bank 2047's unit as given. -/
def running (k : BankKind) (started : Bool) (b : Blu) : State :=
  setBlu { e0 with bankCmds := [(7, { bankCmdOf k with started := started })], ids := 8 } 2047 b

theorem met_bank_start : (running (.bpld 1023 [5]) false Blu.reset).bankCmds.find? (fun e => !isCbld e.2 && e.2.stack = 0) =
      some (7, bankCmdOf (.bpld 1023 [5])) ∧
    (bankSlot (bankCmdOf (.lkac desc1 4 Tile.undefined))).map (cbldBefore (running (.lkac desc1 4 Tile.undefined) false Blu.reset) 7 0) =
      some false ∧
    ((dieAt e0 0).cb.getD 0 Codebook.reset).b.toNat = desc1.b ∧
    ((dieAt e0 0).cb.getD 0 Codebook.reset).b.toNat ≠ { desc1 with b := 2 }.b ∧ (partAt e0 0).line = false := by decide +kernel
theorem met_table_build : (let s := running (.tbld desc1 0x10000) false Blu.reset
    let i : Issuer := default
    (match ranges s i [⟨.va 0x10000, 0, desc1.nbank * desc1.gb * desc1.g, needR⟩] with
     | .ok (t, p) => (match workReady t i p.flatten [], readPieces i t p.flatten with
       | .ok (), .ok (_, b) => b.length == 1 | _, _ => false)
     | _ => false) = true ∧ descBanksOk desc1 = true ∧ descTableOk desc1 = true ∧ 0 < desc1.nbank ∧ 0 < desc1.gb ∧
    1 < 2 ^ (desc1.b * desc1.g)) := by decide +kernel
theorem met_codebook_write : (let s := { e0 with bankCmds := [(3, bankCmdOf (.cbld 63 Codebook.reset [0, 3]))] }
    s.bankCmds.find? (fun e => cbldReady s 3 e.1 e.2) = some (3, bankCmdOf (.cbld 63 Codebook.reset [0, 3]))) := by decide +kernel
def liveBlu : Blu := { Blu.reset with aEnded := false, cmd := some 7 }
theorem met_waves : (let s := running (.bkst desc1 none) true liveBlu
    (dieAt s 0).wave = none ∧ (chooseBanks 4096 s (runningCmds s 0)).2 = [2047] ∧
    (dieAt (modDie s 0 (fun d => { d with wave := some ⟨[2047], 0⟩ })) 0).wave = some ⟨[2047], 0⟩) := by decide +kernel
/-- A load stands in the queue of bank 2047's channel: no wave starts on it. -/
theorem met_queue : (let w : BankWait := ⟨2047, .seq 0 .x, 0x10000, 7⟩
    let s := { running (.bkst desc1 none) true liveBlu with bankWaits := [w] }
    w ∈ s.bankWaits.filter (stillWaits s) ∧ w.bank ∈ (chooseBanks 4096 s (runningCmds s 0)).2) ∧
    haltAborts (running (.bkst desc1 none) true liveBlu) 0 (7, { bankCmdOf (.bkst desc1 none) with started := true }) = true ∧
    (dieAt e0 0).wave = none := by decide +kernel
/-- A write of a context block waits for bank 2047; a failed edge lies between a stack and the issuer. -/
theorem met_device_waits : (let s := running (.bkst desc1 none) true liveBlu
    deviceWaits { s with blockq := [⟨0, 0, 128 * 2047, [1]⟩] } [bankOfLine 2047] = true ∧ deviceWaits s [2047] = false ∧
    resultCut { s with edgeDown := [0] } { bankCmdOf (.bkst desc1 none) with stack := 2 } = true ∧
    resultCut s (bankCmdOf (.bkst desc1 none)) = false) := by decide +kernel
/-- The line of a page-table entry that a walk needs is the host's; a host that holds the line of a register's block. -/
theorem met_walks_wait : (let s := setDir { copyAtWork with tlb := [] } 0 { DirEntry.reset with st := .owned .host }
    let t := setDir { running (.tbld desc1 0x10000) false Blu.reset with tlb := [] } 0 { DirEntry.reset with st := .owned .host }
    (match tabGet s.cmds 0 with | some c => (match cmdWork s 0 c with | .walk _ => true | _ => false) | none => false) = true ∧
    (match workTbld t (bankCmdOf (.tbld desc1 0x10000)) desc1 Codebook.reset 0x10000 with | .error (.walk _) => true | _ => false) = true ∧
    (readyRange false 0 0 false 0x148 8 (t, true)).2 = true ∧ (readyRange false 0 0 false 0x40 8 (t, true)).2 = false) := by
  decide +kernel
theorem met_retire : (let s := running (.bkst desc1 (some (4, tileWith .i32 1 8 0xC00 .empty none))) true Blu.reset
    tabGet s.bankCmds 7 ≠ none ∧ waveBanks s 7 (bankCmdOf (.bkst desc1 none)) = [] ∧
    waveBanks (running (.bkst desc1 none) true liveBlu) 7 (bankCmdOf (.bkst desc1 none)) = [2047] ∧
    sameIteration s (default : Issuer) = true ∧ bankDesc (bankCmdOf (.bpld 0 [])) = none) := by decide +kernel
theorem test_bpld_start : (let s := after (.bankCommandStart 0) (running (.bpld 1023 [5]) false Blu.reset)
    (kernelWord s 0 1023, (after (.bankCommandRetire 7) s).bankCmds.length)) = (5, 0) := by decide +kernel
/-- Entries of weight 1 (code 1 of a slot whose entries are 0 and 1): the activation, and 0 for code 0. -/
theorem test_tbld_tables : (let s := running (.tbld desc1 0x10000) false Blu.reset
    let s := { s with mem := [(0x8000000000, 0xFF)], dies := [(0, { Die.reset with cb := Vector.replicate 64 ⟨0x100, 0x3F800000, 1⟩ })] }
    let t := after (.bankCommandStart 0) s
    (tableAt t 2047 1022, tableAt t 2047 1023)) = (0, 0xFFFFFFFF) := by decide +kernel
/-- Eight columns that the bank has sent, the first with a sum above the range. -/
def lastColumns : State :=
  let k : BankKind := .lkac (descOf (bankDescNat 8 true)) 4 (tileWith .i32 1 8 0xC00 .filling none)
  { running k true { Blu.reset with cmd := some 7, sent := 8 } with
    bankCmds := [(7, { bankCmdOf k with started := true, sums := [(0, 2 ^ 31)] })] }
theorem met_rows_complete : (let d := descOf (bankDescNat 8 true)
    let c := bankCmdOf (.lkac d 4 (tileWith .i32 1 8 0xC00 .filling none))
    columnsComplete lastColumns c d = 8 ∧ 7 < columnsComplete lastColumns c d / 8 * 8 ∧
    tileRowBytes (tileWith .i32 1 8 0xC00 .filling none) = 4 * 8 ∧ c.drained = 0) := by decide +kernel
theorem test_lkac_retires : (let t := after (.bankCommandRetire 7) lastColumns
    (memRead t.mem 0x8000000C00 4, (tileOf (curCtx t) 4).st, t.bankCmds.length)) =
    ([0xFF, 0xFF, 0xFF, 0x7F], .ready, 0) := by decide +kernel
theorem test_wave_limit : bandLimit 3 = 64 ∧ bandIdle 3 = 8 := by decide +kernel

/-! ### Kernel words -/

/-- Bank 0's thread at work on word 512, its unit as given. -/
def kernelState (arith : Bool) (b : Blu) : State :=
  let s := setBlu (placeKernel State.reset 0) 0 { b with apc := 512, xpc := 512, cmd := some 0 }
  atBlu { s with bankCmds := s.bankCmds.map (fun e => (e.1, match e.2.kind with
    | .bkst d r => { e.2 with kind := .bkst { d with ncol := 2, gb := 1 } r } | _ => e.2)) } 0 arith .none

def freshBlu : Blu := { Blu.reset with aEnded := false, xEnded := false }

/-- Registers at the boundary of the region and past it, an open row, full and empty queues, full loop stacks. -/
theorem met_kernel : (let k (arith : Bool) (b : Blu) : Bool := match kernAt (kernelState arith b) with
      | some k => decide (k.desc.klo.toNat ≤ kernPc (kernelState arith b) k) &&
          decide (kernPc (kernelState arith b) k ≤ k.desc.khi.toNat) && decide (k.cmd.nrow = 32768)
      | none => false
    k false freshBlu = true ∧ k true freshBlu = true ∧ k false { freshBlu with openRow := some 32767 } = true ∧
    k false { freshBlu with n := Vector.replicate 8 32768 } = true ∧ k true { freshBlu with sq := List.replicate 16 0 } = true ∧
    k false { freshBlu with aLoops := List.replicate 4 ⟨0, 0, 0, 1, 0, 0⟩, sq := [3] } = true ∧
    k true { freshBlu with iq := [List.replicate 32 1], aEnded := true } = true ∧ k false { freshBlu with xEnded := true } = true ∧
    k true { freshBlu with aEnded := true, sent := 2 } = true) ∧
    (kernelState false freshBlu).cur.parity = .none := by decide +kernel
/-- The fetched word has a parity error; the unit is otherwise as above. -/
theorem met_kernel_parity : (let s := kernelState false freshBlu
    let t := { s with cur := { s.cur with parity := .word } }
    (kernAt t).isSome = true ∧ t.cur.parity = .word ∧ (kernAt t).map (fun k => kernPc t k) = some 512) := by decide +kernel
/-- The word past the range; a full IQ; an error in the data of an index or a table; poisoned rows. -/
theorem met_kernel_faults : (let s := kernelState false freshBlu
    (kernAt (setBlu s 0 { (bluAt s 0) with apc := 0 })).map (fun k => decide (kernPc (setBlu s 0 { (bluAt s 0) with apc := 0 }) k < k.desc.klo.toNat)) =
      some true ∧
    (kernAt { s with cur := { s.cur with parity := .data } }).isSome = true ∧
    (kernAt (kernelState false { freshBlu with openRow := some 0, iq := List.replicate 64 [] })).map (fun k => k.blu.iq.length) = some 64 ∧
    (kernAt s).map (fun k => rowsPoison { s with poison := [lineOf (bankAddr k.cmd.stack (k.bank % 2048) 32765 0)] } k
        [32765, 32766, 32767]) = (kernAt s).map (fun k => some (lineOf (bankAddr k.cmd.stack (k.bank % 2048) 32765 0))) ∧
    (∀ i ∈ [1, 2, 3], i < 32768)) := by decide +kernel
theorem met_kernel_majority : ([1, 2, 3].Nodup) ∧ (∀ i ∈ [32765, 32766, 32767], computeRow ≤ i) := by decide +kernel
theorem met_kernel_next : ∀ e ∈ freshBlu.aLoops.head?, e.last ≠ freshBlu.apc := by decide +kernel
theorem test_kernel_act_bounds : (let s := after (.kAct 0 0) (kernelState false { freshBlu with n := Vector.replicate 8 32768 })
    ((bluAt s 0).openRow, (bluAt s 0).aEnded)) = (none, true) := by decide +kernel
theorem test_kernel_act : (let s := after (.kAct 0 7) (kernelState false freshBlu)
    ((bluAt s 0).openRow, (bluAt s 0).apc)) = (some 7, 513) := by decide +kernel
theorem test_kernel_zout : (let s := after (.kZout 1 2) (kernelState true { freshBlu with z := Vector.replicate 64 0xFFFFFFFF })
    (s.bankCmds.map (fun e => e.2.sums), (bluAt s 0).sent)) = ([[(0, -1), (1, -1)]], 2) := by decide +kernel
theorem test_kernel_end_loop : kernEnd true 520 (Vector.replicate 8 5) [⟨2, 0x7F, 0, 1, 513, 520⟩] =
    (513, (Vector.replicate 8 5).set 2 4, [⟨2, 0x7F, 1, 0, 513, 520⟩]) := by decide +kernel
theorem test_majority : majority 0x0F 0x33 0x55 = 0x17 := by decide +kernel
/-- The resident kernel's first words (Table 13.7). -/
theorem test_rom : decodeKernel (kernelWord State.reset 0 0) = some (.kAloopR 0 1 1 4) := by decide +kernel

/-! ## Counters, waits, time, streams and work -/

/-- A counter at VA 0x20000 (device memory) holding `v`, x1 its address, x2 a target, x3 a ceiling. -/
def counterState (v : Nat) (target ceil : Word) : State :=
  { tiny [0, 0x20000, target, ceil] with mem := memWrite [] 0x100000 (leBytes 8 v) }

/-- What a waiter finds: the value at its counter. -/
def counterValue (s : State) : Option Word :=
  match counterNow s (curAsker s) 0 0 (some 0) 0x100000 0x20000 with | .value _ v => some v | _ => none

/-- Below, at and above the target; at and above the ceiling. -/
theorem met_counters : operandsReady (counterState 4 5 6) [opA .ssrc a1, opB .ssrc a2, opC .ssrc d3] = true ∧
    operandsReady (counterState 4 5 6) [opA .ssrc a1, opB .ssrc (.imm 31)] = true ∧
    (curSeq (counterState 4 5 6)).status = .running ∧
    targetOf (counterState 4 5 6) 0x20000 needRW = some (.device 0x100000) ∧ seqWtOver (counterState 4 5 6) 0 .x 0x100000 8 = false ∧
    counterValue (counterState 4 5 6) = some 4 ∧ counterValue (counterState 5 5 5) = some 5 ∧
    overCeiling 6 (some 6) = false ∧ overCeiling 7 (some 6) = true ∧
    targetOf (counterState 0 0 0) 0x10000 needRW = some (.scratch 0x8000000000) := by decide +kernel
theorem met_counter_waiter : (let s := after (.cwait 5 a1 a2) (counterState 4 5 0)
    (seqOf (ctxAt s 0) .x).status = .waiting (.counter 0x100000 0x20000 5 none) ∧ (tabGet s.ctxs (ctxKey 0 0)).isSome = true ∧
    (match counterNow s (.seq 0 .x) 0 0 none 0x100000 0x20000 with | .value _ v => v == 4 | _ => false) = true) := by decide +kernel
/-- A wait that its counter's home has met, or found past its ceiling; a counter on a poisoned line. -/
theorem met_counter_outcomes : (let s := modSeq (counterState 4 5 6) (fun q => { q with status := .waiting (.satisfied (some (0x20000, 9))) })
    (curSeq s).status = .waiting (.satisfied (some (0x20000, 9))) ∧
    operandsReady s [opA .ssrc a1, opB .ssrc a2] = true) ∧
    (match counterNow { counterState 4 5 6 with poison := [0x2000] } (.seq 0 .x) 0 0 (some 0) 0x100000 0x20000 with
     | .fault f _ => f.code == 0x11 | _ => false) = true ∧
    (match counterNow (counterState 4 5 6) (.seq 0 .x) 0 0 (some 0) 0x1000000000000 0x30000 with
     | .wait _ => true | _ => false) = true ∧
    (partAt (after (.trap 7) (tiny [])) 0).line = true := by decide +kernel
theorem met_waits : operandsReady (tiny []) [opB .ssrc (.imm 0)] = true ∧ operandsReady (tiny []) [opD .sdst d3] = true ∧
    (16 : BitVec 5).getLsbD 4 = true ∧ outstandingSum (after (.st 3 a2 a1 (.x false 0) 0) (tiny [0, 0x20000, 77])) 1 = 1 := by
  decide +kernel
theorem met_activations : (let s := tiny [0, 0x10000, 15 * 2 ^ 16 + 2047]
    operandsReady s [opD .sdst d3, opA .ssrc a1, opB .ssrc a2] = true ∧ currentHandle s 0 0x10000 = true ∧
    bitsOf (15 * 2 ^ 16 + 2047) 11 5 = 0 ∧ bitsOf (15 * 2 ^ 16 + 2047) 16 16 < 16) := by decide +kernel
theorem test_cadd_performs : (let s := after (.cadd 5 31 a1 a2) (counterState 4 5 0)
    memNat (after (.writeThrough 0) s).mem 0x100000 8) = 9 := by decide +kernel
theorem test_cadd_negative : ((curCtx (after (.cadd 5 31 a1 a2) (counterState 4 (-1) 0))).fault.map (fun f => (f.code, f.val))) =
    some (0x0A, -1) := by decide +kernel
theorem test_cwait : (curSeq (after (.cwait 5 a1 a2) (counterState 5 5 0))).pc = 0x10008 ∧
    (curSeq (after (.cwait 5 a1 a2) (counterState 4 5 0))).pc = 0x10000 := by decide +kernel
theorem test_cwaitx_ceiling : faultCode (.cwaitx 5 a1 a2 d3) (counterState 7 5 6) = some 0x0B ∧
    faultCode (.cwaitx 5 a1 a2 d3) (counterState 6 5 6) = none ∧ faultCode (.cwaitx 5 a1 a2 d3) (counterState 6 5 4) = some 0x02 := by
  decide +kernel
theorem test_wait_stalls : (curSeq (after (.wait 1 (.imm 0)) (after (.st 3 a2 a1 (.x false 0) 0) (tiny [0, 0x20000, 77])))).status =
    .waiting (.outstanding 1 0) := by decide +kernel

/-- Before and at the time. -/
theorem met_time : operandsReady (tiny []) [opD .sdst d3] = true ∧ operandsReady (tiny [0, 100]) [opA .ssrc a1] = true ∧
    (tiny []).now = 100 ∧ (let s := after (.tat a1) (tiny [0, 101])
      (slotAt s 0).ctx = some 0 ∧ (seqOf (ctxAt s 0) .x).status = .until 101) := by decide +kernel
theorem test_tnow : result (.tnow d3) (tiny []) = 100 := by decide +kernel
theorem test_tat_boundary : (curSeq (after (.tat a1) (tiny [0, 100]))).pc = 0x10008 ∧
    (curSeq (after (.tat a1) (tiny [0, 101]))).status = .until 101 := by decide +kernel
theorem test_time_reached : (curSeq (after (.timeBaseReached 0 .x) { after (.tat a1) (tiny [0, 101]) with now := 101 })).status =
    .running := by decide +kernel

def bound (b : Binding) (l : List QEnt) : State :=
  let c := ctxWith [0, 0x10000, 4, 3]
  { stateWith { c with binds := c.binds.set 1 b, q := c.q.set 1 l } with mem := memWrite [] 0x8000000000 [1, 0, 0, 0, 0xFE, 0xFF, 0xFF, 0xFF] }
def loadStream : Binding := ⟨0x10004, 2, 4, 2, true, false, true, .x⟩
def storeStream : Binding := ⟨0x10008, 0, 4, 2, false, true, true, .x⟩
def anEntry : QEnt := ⟨0x11223344, true, 0, 0x8000000008, 0x800000003F, 0x10008, 0x10000, false, false⟩

theorem met_sbind : (let s := bound Binding.unbound []
    operandsReady s [opD .qName (.q 1), opA .ssrc a1, opB .ssrc a2, opC .ssrc d3] = true ∧ (bindOf (curCtx s) 1).bound = false ∧
    qOf (curCtx s) 1 = [] ∧ (-8388608 : Int) ≤ (4 : Word).toInt ∧ operandsReady s [opD .qName (.q 1)] = true) ∧
    (bindOf (curCtx (bound loadStream [])) 1).bound = true := by decide +kernel
theorem met_streams : (let s := bound loadStream []
    let t := atSlot s 0 .x
    let s1 := { t with cur := { t.cur with strm := some 1 } }
    loadBound (ctxAt s 0) 1 = true ∧ partRuns s 0 = true ∧ fillHeld s1 none = false ∧ okRes (elementFault s1 1 0x10004) = true ∧
    loads s1 0x10004 4 false = true ∧
    (let s := bound loadStream [{ anEntry with stale := true }]
     (qOf (ctxAt s 0) 1).find? QEnt.stale = some { anEntry with stale := true } ∧
     okRes (readElement { s with cur := { s.cur with strm := some 1 } } 1 anEntry.va) = true)) ∧
    (let s := bound storeStream [anEntry]
     (bindOf (ctxAt s 0) 1).dir = true ∧ qOf (ctxAt s 0) 1 = [anEntry] ∧ (partAt s 0).halted = false ∧
     streamWts s 0 (ctxAt s 0) 1 = false ∧ streamCount (qOf (ctxAt s 0) 1) = 1) ∧
    (slotAt { tiny [] with slots := [(0, { Slot.reset with ctx := some 0, fill := some (.x, 31) })] } 0).fill = some (.x, 31) := by
  decide +kernel
theorem test_sbind : (bindOf (curCtx (after (.sbindLd 2 true (.q 1) a1 a2 d3) (bound Binding.unbound []))) 1) =
    ⟨0x10000, 3, 4, 2, true, false, true, .x⟩ := by decide +kernel
theorem test_load_stream_extends : (qOf (ctxAt (after (.loadStreamFill 0 1) (bound loadStream [])) 0) 1).map QEnt.val = [-2] := by
  decide +kernel
theorem test_store_stream_writes : (after (.storeStreamWrite 0 1) (bound storeStream [anEntry])).mem.length = 9 ∧
    memRead (after (.storeStreamWrite 0 1) (bound storeStream [anEntry])).mem 0x8000000008 4 = [0x44, 0x33, 0x22, 0x11] := by
  decide +kernel
theorem test_stream_pop_advances : (let s := after (.mv d3 (.q 1)) (bound loadStream [{ anEntry with val := 7 }])
    ((curSeq s).l[0], (bindOf (curCtx s) 1).next, (bindOf (curCtx s) 1).remain)) = (7, 0x10008, 1) := by decide +kernel
theorem test_register_cache_miss : (let s := { stateWith { ctxWith [] with x := { seqWith [] with rc := [] } } with
      mem := memWrite [] 0x7000000148 [5], copies := [(lineOf 0x7000000148, [0])] }
    let t := after (.mv d3 a1) s
    ((curSeq t).pc, (slotAt t 0).fill, result (.mv d3 a1) (after (.registerCacheFill 0) t))) = (0x10000, some (.x, 1), 5) := by
  decide +kernel

/-- A record of one iteration of a task without counter: one level, cscope package, entry 0x10000. -/
def recordNat (xentry : Nat) : Nat :=
  1 * 2 ^ 2 + 1 * 2 ^ 8 + 2 * 2 ^ 11 + 3 * 2 ^ 14 + 4 * 2 ^ 17 + 5 * 2 ^ 20 + 5 * 2 ^ 26 + xentry * 2 ^ 64 +
    (List.range 6).foldl (fun n k => n + 2 ^ (192 + 32 * k)) 0

def postState (n : Nat) : State := { tiny [0, 0x10000, 0] with mem := memWrite [] 0x8000000000 (leBytes 128 n) }

/-- A record with its entry, and one without; a pool with room and one without. -/
theorem met_post : operandsReady (postState 0) [opD .sdst d3, opA .ssrc a1] = true ∧
    operandsReady (postState 0) [opD .sdst d3, opA .ssrc a1, opB .ssrc a2] = true ∧
    (match loadRange 2 (postState (recordNat 0x10000)) 0x10000 128 with
     | .ok (u, b) => !recMalformed (recOf (leNat b)) && okRes (postCounter u (recOf (leNat b))) | _ => false) = true ∧
    recMalformed (recOf (recordNat 0)) = true ∧ (poolEntry (postState 0) 0 0).isSome = true := by decide +kernel

def aTask : Task :=
  { part := 0, cluster := 0, rcd := recOf (recordNat 0x10000), recAddr := 0, counter := (0, .update), pool := .shared, entered := false,
    deps := [], prio := 0, relCore := 0, relCut := 0, dispatched := 0, ended := 0, launched := true, prepared := false,
    readyNs := 0, addSent := false, cuts := [] }

theorem met_full_pool : poolEntry { tiny [] with tasks := (List.range 208).map (fun i =>
    (i, { aTask with pool := if i < 192 then .shared else .reserved })) } 0 0 = none := by decide +kernel
/-- The A sequencer is owed an issue slot; where it is idle nobody is. -/
theorem met_yield : (curSeq (tiny [])).status = .running ∧
    (let s := after .yield (tiny [])
     (curSeq s).status = .waiting (.yield [(0, .a)]) ∧ pickWork s 0 (some 0) = none ∧ seqReady s 0 .a = true ∧
     leavingRunnable s 0 = false) ∧
    leavingRunnable { stateWith { ctxWith [] with place := .mirror 0 } with
      slots := [(0, { Slot.reset with mirror := .spilling 0 })] } 0 = true ∧
    (let c := ctxWith []
     readyOthers (stateWith { c with a := { c.a with status := .idle } }) = []) := by decide +kernel
/-- A context whose A sequencer is done ends with its X sequencer's `done`. -/
def endState : State :=
  let c := ctxWith []
  { stateWith { c with a := { c.a with status := .done } } with tasks := [(0, { aTask with dispatched := 1 })] }
theorem met_done : endState.mx = [] ∧ iterationOver (curCtx (modSeq (retire endState) (fun q => { q with status := .done }))) = true ∧
    (curCtx endState).fault = none ∧ (slotAt endState 0).ctx = some 0 ∧ (curCtx endState).place = .inSlot 0 ∧
    iterationOver (curCtx (modSeq (retire (tiny [])) (fun q => { q with status := .done }))) = false := by decide +kernel
theorem test_post : (let s := after (.post d3 a1) (postState (recordNat 0x10000))
    ((curSeq s).l[0], s.tasks.length)) = (0, 1) ∧
    result (.post d3 a1) (postState (recordNat 0)) = 2 := by decide +kernel
theorem test_done_frees : (let s := after .done endState
    (s.ctxs.length, (slotAt s 0).ctx, s.tasks.map (fun e => e.2.ended))) = (0, none, [1]) := by decide +kernel

/-! ## Homes, messages and links -/

def afterStore : State := after (.st 3 a2 a1 (.x false 0) 0) (tiny [0, 0x20000, 77])

theorem met_write_through : (let s := afterStore
    (tabGet s.wts 0).map (fun w => (w.phase, w.pa, w.kind)) = some (.toHome, 0x100000, .store) ∧ s.waiters = [] ∧
    (match tabGet s.wts 0 with
     | some w => !wtBehind s 0 w && !addHeld s w && !addStops s w && decide (window s 0 w.pa = .device 0x100000)
     | none => false) = true ∧ cutOff s 0 (.device 0x100000) = false ∧ (dirAt s 0x2000).st ≠ .gathering ∧
    hostShares (homeLine s 0x2000 (some 0)) 0x2000 = false ∧ poisoned (homeLine s 0x2000 (some 0)) 0x100000 = false) := by decide +kernel
theorem met_cadd_at_home : (let s := after (.cadd 5 31 a1 a2) (counterState (2 ^ 64 - 1) 1 0)
    (tabGet s.wts 0).map (fun w => addHeld s w || addStops s w) = some false ∧ 2 ^ 64 ≤ (memWord s.mem 0x100000).toNat + 1) := by
  decide +kernel
/-- A device line nobody holds, one held in partials, one in a DISJ copy; a cache that holds a copy. -/
theorem met_directory : deviceLine 0x2000 = true ∧ lineBusy (tiny []) 0x2000 = false ∧ isCache 1535 = true ∧
    hostOwns (homeLine (tiny []) 0x2000 none) 0x2000 = false ∧
    (match facetGrant (tiny []) 1535 0x2000 13 none with | .granted _ => true | _ => false) = true ∧
    (let s := after (.redIadd32 a1 a2) (tiny [0, 0x20004, 9])
     (dirAt s 0x2000).st = .faceted 1 ∧ (tabGet s.partials (partialKey 0 0x2000)).isSome = true) ∧
    0 ∈ copiesOf (after (.readShared 0 0x2000) (tiny [])) 0x2000 ∧
    (let s := setDir { tiny [] with partials := [(partialKey 0 0x2000, newPartial 0)] } 0x2000 { DirEntry.reset with st := .gathering }
     (dirAt s 0x2000).st = .gathering ∧ lineBusy { s with edgeDown := [] } 0x2000 = lineBusy s 0x2000) := by decide +kernel
/-- A line the host shares, whose writer waits for its InvAck; copies that have been given up, their notices on their way. -/
theorem met_line_transitions : (let s := setDir afterStore 0x2000 { DirEntry.reset with st := .shared, sharers := [hostCache] }
    hostShares s 0x2000 = true ∧ hostOwns s 0x2000 = false ∧ lineBusy s 0x2000 = false ∧
    (let t := after (.writeThrough 0) s
     lineBusy t 0x2000 = true ∧ (homeReady t 0 0x2000 true).isSome = true ∧ hostHolds t 0x2000 true = true ∧
     (homeHolds t (.seq 0 .x) 0 0 0x2000 false).isSome = true)) ∧
    (let s := { tiny [] with notices := [(7, 0x2000)] }
     let shared := setDir s 0x2000 { DirEntry.reset with st := .shared, sharers := [7, 9] }
     (7, 0x2000) ∈ s.notices ∧ 7 ∉ copiesOf s 0x2000 ∧ hostLineAt s 0x2000 = none ∧ (dirAt shared 0x2000).st = .shared ∧
     (dirAt shared 0x2000).map = none ∧ noticeCut s 7 0x2000 = false ∧
     noticeCut { s with edgeDown := [0, 1, 2, 3] } 1535 0x2000 = true ∧ hostCopiesCut s 0x2000 = false ∧
     (let p := { s with partials := [(partialKey 7 0x2000, newPartial 1)] }
      (dirAt (setDir p 0x2000 { DirEntry.reset with st := .faceted 1, holders := [7] }) 0x2000).st = .faceted 1 ∧
      tabGet p.partials (partialKey 7 0x2000) = some (newPartial 1))) ∧
    (let c : Cmd := ⟨default, .cpy (.va 0) (.va 0) 1 .i8 .i8, false, 0, [0x2000], 0⟩
     tabGet { tiny [] with cmds := [(3, c)] }.cmds 3 = some c ∧ 0x2000 ∈ c.lines ∧ homeReady (tiny []) 0 0x2000 true = none) := by
  decide +kernel
/-- A wave runs on the bank of line 0x2000. -/
def inWaveState : State := { tiny [] with dies := [(dieOfBank (bankOfLine 0x2000), { Die.reset with wave := some ⟨[bankOfLine 0x2000], 0⟩ })] }
def hostReq (addr : Nat) : HostReq := ⟨0, 5, addr⟩
theorem met_host_requests : hostAllowed (tiny []) (hostReq 0x100000) = true ∧ hostAllowed (tiny []) (hostReq 0x4000000000) = false ∧
    hostAllowed (tiny []) ⟨1, 5, 0x100000⟩ = false ∧
    outsideAtomic (homeLine (tiny []) 0x2000 none) 0x100000 .counterAdd 8 (-1) 0 true = none ∧
    (outsideAtomic (homeLine (tiny []) 0x2000 none) 0x100000 .swap 8 3 0 true).isSome = true ∧
    (outsideAtomic (homeLine (tiny []) 0x2000 none) 0x100000 .cas 16 3 0 true).isSome = true := by decide +kernel
theorem met_package_requests : (partAt (tiny []) 0).configured = true ∧ deviceAllowed (tiny []) 0 0x100000 = true ∧
    deviceAllowed (tiny []) 0 0x4000000000 = false ∧ (partAt (tiny []) 1).configured = false := by decide +kernel
/-- A wave holds a request of the host: its turn changes nothing, and it is kept. -/
theorem met_held_request : waveHolds inWaveState 0x2000 false = true ∧ waveHolds (tiny []) 0x2000 true = false ∧
    heldByWave inWaveState (.rdCur (hostReq 0x100000)) = true ∧
    (match exec (.rdCur (hostReq 0x100000)) inWaveState with
     | .next t => decide (t.out = inWaveState.out) && decide (t.held = []) | _ => false) = true ∧
    poisoned { tiny [] with poison := [0x2000] } 0x100000 = true := by decide +kernel
theorem test_host_read : ((after (.rdCur (hostReq 0x100000)) { tiny [] with mem := [(0x100001, 9)] }).out.map (fun f => (f.msg.status, f.msg.payload.getD 1 0))) =
    [(0, 9)] := by decide +kernel
theorem test_host_denied : ((after (.rdCur ⟨3, 5, 0x100000⟩) (tiny [])).out.map (fun f => (f.msg.code, f.msg.tag, f.msg.status))) = [(0x0C, 5, 1)] := by
  decide +kernel
theorem test_host_write_masked : (after (.wrLine (hostReq 0x100000) 2 0xBBAA) (tiny [])).mem = [(0x100001, 0xBB)] := by decide +kernel
/-- A partial of 9 joins the line when the host reads it: 5 + 9. -/
theorem test_facet_focus : (
    let s := { tiny [] with mem := [(0x100004, 5)], partials := [(partialKey 0 0x2000, partialApply (newPartial 1) 4 4 9)] }
    let s := setDir s 0x2000 { DirEntry.reset with st := .faceted 1, holders := [0] }
    memNat (after (.rdCur (hostReq 0x100000)) s).mem 0x100004 4) = 14 := by decide +kernel

/-- A load of a page of the host has asked, and its answer comes. -/
def asking : State := after (.ld 3 d3 a1 (.x false 0) 8) (tiny [0, 0x30000])

theorem met_answers : (asking.asks.map (fun e => (e.1, e.2.who, e.2.code, e.2.link))) = [(0, .seq 0 .x, 0x01, 0)] ∧
    tabGet asking.asks 1 = none ∧ (tabGet asking.ctxs 0).isSome = true ∧ asking.now + 10000000 ≤ { asking with now := 10000100 }.now := by
  decide +kernel
theorem met_write_answers : (let s := after (.writeThrough 0) (after (.st 3 a2 a1 (.x false 0) 8) (tiny [0, 0x30000, 7]))
    s.asks.map (fun e => (e.2.who, e.2.code, e.2.link)) = [(.wt 0, 0x04, 0)] ∧ (tabGet s.wts 0).map Wt.kind = some .store) := by
  decide +kernel
/-- The package owns a host line while its swap waits, and has its bytes when they have come. -/
def owning : State := after (.amoSwap d3 a1 a2 1) (tiny [0, 0x30008, 7])
theorem met_recall : (let line := lineOf 0x1000000000000
    let s := after (.data 0 5 false) owning
    ownsHostLine owning line = true ∧ owning.recalls = [] ∧ ownsHostLine (tiny []) line = false ∧
    targetOf s 0x30008 needRW = some (.host 0x1000000000008) ∧
    (match answerFor s (128 * line) with
     | some a => decide (a.ask.code = 0x02) && !a.denied && !a.ps | none => false) = true) := by decide +kernel
/-- Recalled meanwhile, the line goes back with the swapped word, which answers the recall. -/
theorem test_recall_answered : (let s := after (.data 0 5 false) (after (.recall (lineOf 0x1000000000000)) owning)
    let t := after (.amoSwap d3 a1 a2 1) s
    (s.recalls.length, t.recalls, t.out.getLast?.map (fun f => (f.msg.code, f.msg.payload.getD 8 0)))) =
    (1, [], some (0x08, 7)) := by decide +kernel
theorem met_clock : (let s := { tiny [] with clockPorts := [3] }
    3 ∈ s.clockPorts ∧ 4 ∉ s.clockPorts) ∧ tabD (tiny []).edgeRetries (8 * 3 + 7) 0 < 3 ∧
    3 ≤ tabD { tiny [] with edgeRetries := [(31, 3)] }.edgeRetries (8 * 3 + 7) 0 := by decide +kernel
theorem met_ports : (linkAt (tiny []) 8).up = true ∧ tabD (tiny []).edgeRetries 23 0 < 3 ∧
    linkConcerns partWith 0 = true ∧ tabGet (tiny []).parts 0 = some partWith ∧ (tiny []).wts = [] := by decide +kernel
/-- A swap in a page of the host stands until the line has come. -/
theorem test_host_atomic : (let s := after (.amoSwap d3 a1 a2 1) (tiny [0, 0x30008, 7])
    ((curSeq s).pc, result (.amoSwap d3 a1 a2 1) (after (.data 0 (0x1234 <<< 64) false) s))) = (0x10000, 0x1234) := by decide +kernel
theorem test_timeout_faults : ((curCtx (after (.transportTimeout 0) { asking with now := 10000100 })).fault.map (fun f => (f.code, f.info))) =
    some (0x12, 0x0020) := by decide +kernel
theorem test_link_failure : (let s := after (.linkFailure 0) (tiny [])
    (s.edgeDown, (partAt s 0).line)) = ([0], true) := by decide +kernel

/-! ## The device and the schedulers -/

theorem met_device : (tiny []).booted = true ∧ (tiny []).powered = true ∧ State.reset.booted = false ∧
    recordReserved (2 ^ 5) = true ∧ recordReserved (2 ^ 4) = false ∧ recordReserved 0 = false ∧
    (writeManaged (tiny []) 0x060 0 5).isSome = true ∧ (writeManaged (tiny []) 0x050 4 5).isNone = true ∧
    (tiny []).svc ≠ 0 ∧ ({ tiny [] with svc := 1 } : State).svc.toNat + 1 = 2 ∧ inWave (tiny []) 0 = false ∧
    inWave (placeKernel State.reset 0) 0 = true := by decide +kernel

/-- The extendable functions of no bytes (FIPS 202). -/
theorem test_shake_empty : shake128 4 [] = [0x7F, 0x9C, 0x2B, 0xA4] ∧ shake256 4 [] = [0x46, 0xB9, 0xDD, 0x2B] := by decide +kernel
/-- SHA3-512 of no bytes (FIPS 202). -/
theorem test_sha3_512_empty : (sha3512 []).take 4 = [0xA6, 0x9F, 0x73, 0xCC] := by decide +kernel

/-- A configuration record for partition 1: cluster 15, granule 0, tables, log, root and stop table at their places. -/
def cfgRecord : Nat :=
  1 + 2 ^ 31 + 0x20000 * 2 ^ 64 + 0x30000 * 2 ^ 128 + 0x40000 * 2 ^ 192 + 0x400000 * 2 ^ 256 + 2 ^ 320 + 65536 * 2 ^ 1088 + 0x1F * 2 ^ 1120

def cfgState : State :=
  { State.reset with booted := true, svc := 2, mem := memWrite (memWrite [] 0x20000 (leBytes 128 (recordNat 0x10000))) 0x40008 [64] }

theorem met_configuration : (let q := { partOfRecord cfgRecord 0 with evcap := 64 }
    recordReserved cfgRecord = false ∧ (partAt cfgState 1).configured = false ∧
    readyRange false 1 0 false 0x20000 128 (readyRange false 1 0 false 0x40000 64 (cfgState, true)) = (cfgState, true) ∧
    configOk cfgState 1 q 64 = true ∧ (match (rootCounter cfgState 1 q).2 with | .ok (some _) => true | _ => false) = true ∧ firstCluster q = 15 ∧
    (poolEntry cfgState 15 (rootRec cfgState q).prio).isSome = true) := by decide +kernel
/-- A root record whose counter's page is absent; the host owns the table's line. -/
theorem met_configuration_denied : (let q := { partOfRecord cfgRecord 0 with evcap := 64 }
    let s := { cfgState with mem := memWrite cfgState.mem 0x20000 (leBytes 128 (recordNat 0x10000 + 2 ^ 32 + 0x50000 * 2 ^ 448)) }
    (rootRec s q).cinc = 1 ∧ (match (rootCounter s 1 q).2 with | .ok none => true | _ => false) = true ∧
    (match (rootCounter (setDir s (lineOf 0x30000) { DirEntry.reset with st := .owned .host }) 1 q).2 with
     | .error (.wait _) => true | _ => false) = true) := by decide +kernel
theorem test_reserved_record : ((after (.partCfg (2 ^ 5) 9) cfgState).out.map (fun f => (f.msg.code, f.msg.tag, f.msg.status))) = [(0x0C, 9, 1)] := by
  decide +kernel
theorem test_thermal_trip : (after (.throttleSample 0 0 1920) (tiny [])).powered = false ∧
    (after (.throttleSample 0 0 1919) (tiny [])).powered = true ∧ throttleNext 5 1760 = 6 ∧ throttleNext 6 1760 = 6 ∧
    throttleNext 1 1712 = 0 := by decide +kernel
theorem test_refresh_clears : (let s := { tiny [] with acts := [(rowKey 3 8, 7), (rowKey 3 16, 9)] }
    (after (.refresh 3 1) s).acts) = [(rowKey 3 16, 9)] := by decide +kernel
theorem test_sw_write : (partAt (after (.swWrite 0x060 0 77 1) (tiny [])) 0).wdog = 77 := by decide +kernel
theorem met_refresh_management : tabGet { tiny [] with pendingRfm := [(16383, [5, 6])] }.pendingRfm 16383 = some [5, 6] ∧
    ({ tiny [] with now := 2000000 } : State).now / 1000000 ≠ (tiny []).alertWin ∧ (tiny []).now / 1000000 = (tiny []).alertWin ∧ 128 * (deviceEnd / 128 - 1) < deviceEnd := by decide +kernel

def taskState (t : Task) : State := { stateWith (ctxWith []) with tasks := [(5, t)], slots := [] , ctxs := [] }
/-- The record with one read range of one unit. -/
def rangedTask : Task := { aTask with rcd := { aTask.rcd with reads := #v[2 ^ 41, 0, 0] } }
def timedTask : Task := { aTask with launched := false, rcd := { aTask.rcd with control := aTask.rcd.control ||| (1 <<< 23), launch := 20100 } }

theorem met_tasks : (clusterTasks (taskState rangedTask) 0).find? (fun e => e.2.rcd.ranged && !e.2.entered) = some (5, rangedTask) ∧
    partRuns (taskState rangedTask) 0 = true ∧ runningTask (taskState timedTask) 0 5 = some timedTask ∧
    taskReleased (taskState timedTask) timedTask = true ∧ timedTask.rcd.launch.toNat ≤ (taskState timedTask).now + 20000 ∧
    ({ timedTask with rcd := { timedTask.rcd with launch := 100 } } : Task).rcd.launch.toNat ≤ (taskState timedTask).now ∧
    (let t := { aTask with dispatched := 1, ended := 1 }
     taskDone (taskState t) 5 t = true ∧ t.rcd.cinc = 0) := by decide +kernel
/-- Every slot of the cluster runs a context of priority 0 beside a task of priority 3. -/
theorem met_preemption : (let t := { aTask with prio := 3 }
    let s := { taskState t with slots := (List.range 192).map (fun n => (n, { Slot.reset with ctx := some 0 })), ctxs := [(0, ctxWith [])] }
    dispatchable s t = true ∧ (∀ n ∈ slotsOf 0, slotFreeFor s 5 t n = false) ∧ 0 ∈ slotsOf 0 ∧ victimOk s 5 t 0 = true ∧
    (∀ n ∈ slotsOf 0, victimOk s 5 t n = true → victimBefore s n 0 = false)) := by decide +kernel
theorem met_dispatch : (let s := taskState aTask
    partOfCluster s (clusterOfSlot 7) = some 0 ∧ (slotAt s 7).mirror = .empty ∧ (slotAt s 7).ctx = none ∧
    pickWork s 7 none = some (.new 5 0 0) ∧ groupFor s 3 0 none = some 0 ∧ stagedTask s 7 5 = some aTask ∧
    mayEnter s 7 (.new 5 0 0) = true ∧ readyRange false 0 3 false (ctxBlock s 0) (ctxBytes 0) (s, true) = (s, true)) := by decide +kernel
/-- A swapped-out context that can go on; one at a wait boundary that may leave for it. -/
theorem met_swap : (let out := { ctxWith [] with place := .out, saved := true, slices := 0 }
    let s := { taskState aTask with tasks := [], ctxs := [(0, out)] }
    pickWork s 0 none = some (.ctx 0) ∧ groupFor s 0 0 none = some 0 ∧
    (let c := ctxWith []
     let idle := { c with x := { c.x with status := .waiting (.yield []) }, a := { c.a with status := .idle } }
     let u := { s with ctxs := [(0, idle), (1, out)], slots := [(0, { Slot.reset with ctx := some 0 })] }
     atWaitBoundary u 0 idle = true ∧ pickWork u 0 (some 0) = some (.ctx 1) ∧ mayLeave u 0 0 = true ∧
     mayLeave (setCtx u 0 c) 0 0 = false)) := by decide +kernel
theorem met_watchdog : (let s := { tiny [] with slots := [(0, { Slot.reset with ctx := some 0, wdogCount := 6, wdogLimit := 5 })] }
    (slotAt s 0).wdogLimit ≠ 0 ∧ (slotAt s 0).wdogLimit < (slotAt s 0).wdogCount ∧ (partAt s 0).halted = false ∧
    atWaitBoundary s 0 (ctxAt s 0) = false ∧ (seqOf (ctxAt s 0) .x).status ≠ .faulted) := by decide +kernel
/-- The iteration that a dispatch to slot 7 starts, and its count. -/
theorem test_dispatch : (let c := newCtx (taskState aTask) 5 aTask 7 0 0
    (c.place, c.x.pc, c.core, (countDispatch aTask).dispatched)) = (.inSlot 7, 0x10000, 3, 1) ∧ freeCtx (taskState aTask) 0 = some 0 := by
  decide +kernel
theorem test_task_completes : (after (.taskComplete 0 5) (taskState { aTask with dispatched := 1, ended := 1 })).tasks = [] := by
  decide +kernel
/-- R273's example: extents 2, 3 and 2 for k0, k1 and k2, and k1 innermost, then k0, then k2. -/
theorem test_walk : [3, 5, 11].map (walk { aTask.rcd with control := 3 * 2 ^ 2 + 0x58D020, extents := #v[2, 3, 2, 1, 1, 1] }) =
    [[1, 0, 0, 0, 0, 0], [1, 2, 0, 0, 0, 0], [1, 2, 1, 0, 0, 0]] := by decide +kernel
theorem test_watchdog : faultCode (.iterationWatchdog 0)
    { tiny [] with slots := [(0, { Slot.reset with ctx := some 0, wdogCount := 6, wdogLimit := 5 })] } = some 0x0F := by decide +kernel

/-- Halted by a fault: its stop table is at 0x400000. The context is without slices. -/
def trapped : State := after (.trap 7)
  (stateWith { ctxWith [] with slices := 0, v := Vector.replicate 32 ⟨.none, []⟩, acc0 := Acc.reset })
/-- The same, its context swapped out. -/
def trappedOut : State := modCtx trapped 0 (fun c => { c with place := .out })
/-- The partition at its halt, its record's F bit and no other byte of the record set; core 0 holds copies of the lines of its
context block. -/
def haltedTest : State := modPart { trapped with
  mem := [(0x400001, 0x40)], copies := (List.range 100).map (fun i => (lineOf 0x7000000000 + i, [0])) } 0
  (fun q => { q with halted := true })

theorem met_halt : (partAt trapped 0).line = true ∧ (partAt trapped 0).halted = false ∧ (partAt trapped 0).configured = true ∧
    partQuiet trapped 0 = true ∧ (blocksReady true trapped 0).2 = true ∧
    partQuiet { trapped with wts := afterStore.wts } 0 = false ∧ trapped.powered = true := by decide +kernel
theorem met_halt_records : (let r := blocksReady true trappedOut 0
    let v := Machine.savedState r.1 0
    v.ctxs ≠ [] ∧ partQuiet trappedOut 0 = true ∧ recordCut v 0 0 = false ∧ r.2 = true ∧ tabWf v.ctxs ∧ (∀ e ∈ v.ctxs, e.1 < 16384) ∧ tabWf v.detached ∧ (∀ e ∈ v.detached, e.1 < 16)) ∧
    (let s := setDir trapped (lineOf 0x400000) { DirEntry.reset with st := .owned .host }
     (blocksReady true s 0).2 = false ∧ partQuiet s 0 = true) := by decide +kernel
theorem met_release : (let u := (blocksReady false haltedTest 0).1
    (partAt haltedTest 0).halted = true ∧ (blocksReady false haltedTest 0).2 = true ∧ tabWf u.ctxs ∧
    partFaults u 0 ≠ [] ∧ (∀ e ∈ partFaults u 0, recordOk u 0 e.1 e.2 = true) ∧ u.poison = [] ∧
    (∀ e ∈ u.dir, isFaceted e.2 = false) ∧ u.cmds = [] ∧ u.bankCmds = [] ∧ u.wts = [] ∧ (ctxAt u 0).part = 0 ∧
    (ctxAt u 0).fault.map (fun f => (f.e, f.sq)) = some (false, .x) ∧ recordF u 0 0 = true ∧
    (seqOf (ctxAt (restoredState u 0) 0) .x).status = .faulted) ∧
    (let s := { haltedTest with mem := memWrite haltedTest.mem 0x400034 [1] }
     ∃ e ∈ partFaults s 0, recordOk s 0 e.1 e.2 = false) := by decide +kernel
theorem test_stop_record : memNat (writeStopTable trapped 0).mem 0x400000 1 = 0x13 := by decide +kernel
/-- The host sets rpc to the next word, and the sequencer goes on there. -/
theorem test_release_resumes : (let r := { haltedTest with mem := memWrite haltedTest.mem 0x400034 (leBytes 8 0x10008) }
    let s := resumeCtx r 0 r 0
    ((curSeq s).pc, (curSeq s).status, (curCtx s).fault.isNone)) = (0x10008, .running, true) := by decide +kernel

end Sys2Proof.Tests
end

section
/-!
O2: the major opcodes that stay unassigned (R56).
-/

namespace Sys2Proof.Proofs

open Sys2Proof

/-- A word that no group reads is no instruction, on every sequencer (R57, Table 3.4). -/
theorem decode64_of_decGroup_none (sd : Side) (w : Word) (h : decGroup (rawOf w) = none) :
    decode64 sd w = .illegalOpcode w := by
  simp [decode64, decodeRaw, h]

theorem decGroup_op_00 (r : Raw) (h : r.op = 0x00#8) : decGroup r = none := by
  simp [decGroup, h]

theorem decGroup_op_ff (r : Raw) (h : r.op = 0xFF#8) : decGroup r = none := by
  simp [decGroup, h]

/-- Settles O2: the group decoder has no row for either major opcode. -/
theorem neverInstructions : Obligations.NeverInstructions := by
  intro sd w h
  apply decode64_of_decGroup_none
  rcases h with h00 | hff
  · exact decGroup_op_00 (rawOf w) h00
  · exact decGroup_op_ff (rawOf w) hff

end Sys2Proof.Proofs
end

section
/-!
SUPPORT. The context and the sequencer at work after the shared updates: what an update makes of them, and that counting
and the watchdog of a slot leave them alone.
-/

namespace Sys2Proof.Proofs

open Sys2Proof Sys2Proof.Machine Sys2Proof.Laws

/-! ### A slot's update that keeps its context -/

theorem slotAt_modSlot (s : State) (n m : Nat) (f : Slot → Slot) :
    slotAt (modSlot s n f) m = if m = n then f (slotAt s n) else slotAt s m := by
  by_cases h : m = n
  · simp [h, slotAt, modSlot]
  · simp [h, slotAt, modSlot, tabD_tabPut_other]

theorem curKey_modSlot (s : State) (n : Nat) (f : Slot → Slot) (hf : ∀ l, (f l).ctx = l.ctx) :
    curKey (modSlot s n f) = curKey s := by
  have hcur : (modSlot s n f).cur = s.cur := rfl
  unfold curKey
  rw [hcur, slotAt_modSlot]
  split
  next h => rw [hf, h]
  next => rfl

theorem curSeq_modSlot (s : State) (n : Nat) (f : Slot → Slot) (hf : ∀ l, (f l).ctx = l.ctx) :
    curSeq (modSlot s n f) = curSeq s := by
  unfold curSeq curCtx
  rw [curKey_modSlot s n f hf]
  rfl

@[simp] theorem curSeq_curPm (s : State) (k n : Nat) : curSeq (curPm s k n) = curSeq s :=
  curSeq_modSlot s _ _ (fun _ => rfl)

@[simp] theorem curSeq_wdogReset (s : State) (n : Nat) : curSeq (wdogReset s n) = curSeq s :=
  curSeq_modSlot s _ _ (fun _ => rfl)

@[simp] theorem curSeq_boundaryReset (s : State) : curSeq (boundaryReset s) = curSeq s := by
  unfold boundaryReset boundaryAt
  split
  · exact curSeq_wdogReset s _
  · rfl

/-! ### The update of the context or the sequencer at work -/

@[simp] theorem curCtx_modCur (s : State) (f : Ctx → Ctx) : curCtx (modCur s f) = f (curCtx s) :=
  tabD_tabPut_same s.ctxs (curKey s) _ _

@[simp] theorem curSeq_modSeq (s : State) (f : Seq → Seq) : curSeq (modSeq s f) = f (curSeq s) := by
  have hcur : (modSeq s f).cur = s.cur := rfl
  unfold curSeq
  rw [hcur, modSeq, curCtx_modCur, seqOf_setSeq]

/-- An instruction that retires does its update, and its sequencer runs on. -/
@[simp] theorem curSeq_retired (s : State) (f : Seq → Seq) :
    curSeq (retired s f) = { f (curSeq s) with status := .running, why := .none } := by
  simp [retired]

theorem curSeq_retireTo_pc (s : State) (target : Word) : (curSeq (retireTo s target)).pc = target := by
  simp [retireTo]

end Sys2Proof.Proofs
end

section
/-!
O17: the target of a transfer by offset (R47).
-/

namespace Sys2Proof.Proofs

open Sys2Proof Sys2Proof.Machine Sys2Proof.Laws

/-- Wrapping 8 times the signed offset is 8 times the sign-extended offset, for every field width. -/
theorem relTarget_eq_signExtend {n : Nat} (pc : Word) (off : BitVec n) :
    relTarget pc off.toInt = pc + 8 * off.signExtend 64 := by
  unfold relTarget wrap64
  rw [BitVec.ofInt_mul]
  rfl

theorem exec_jal (d : Spec) (off : BitVec 32) (s : State) : exec (.jal d off) s = execJal d off s := rfl

/-- A jump that links to x0 is a transfer that may leave loops (R102, R105). -/
theorem exec_jal_x0 (s : State) (off : BitVec 32) (h : operandsReady s [opD .link (.x false 0)] = true) :
    exec (.jal (.x false 0) off) s =
      .next (retireTo (writeDst (afterReads s [opD .link (.x false 0)]) (.x false 0) ((curSeq s).pc + 8))
        (relTarget (curSeq s).pc off.toInt)) := by
  rw [exec_jal, execJal, gate_ready s _ h]
  rfl

/-- Settles O17: the arithmetic of the two field widths, and the PC that a jump without a link leaves. -/
theorem relativeTarget : Obligations.RelativeTarget := by
  refine ⟨relTarget_eq_signExtend, relTarget_eq_signExtend, fun s off _ hready => ?_⟩
  exact ⟨_, exec_jal_x0 s off hready, by rw [curSeq_retireTo_pc, relTarget_eq_signExtend]⟩

end Sys2Proof.Proofs
end

section
/-!
SUPPORT. The common start of the vector instructions: what it answers where the operands are ready, and what an answer of
it says of the state (R58, R126, R129).
-/

namespace Sys2Proof.Proofs

open Sys2Proof Sys2Proof.Machine Sys2Proof.Laws

/-! ### Chains of checks -/

theorem res_bind_ok {α β : Type} {x : Res α} {f : α → Res β} {b : β} (h : x >>= f = .ok b) :
    ∃ a, x = .ok a ∧ f a = .ok b := by
  cases x with
  | error e => cases h
  | ok a => exact ⟨a, rfl, h⟩

theorem need_of {p : Prop} [Decidable p] (h : p) (e : Res Unit) : need (decide p) e = .ok () := by
  rw [decide_eq_true h, need_true]

theorem need_of_not {p : Prop} [Decidable p] (h : ¬p) (e : Res Unit) : need (decide p) e = e := by
  rw [decide_eq_false h, need_false]

/-- Whatever the fields of the word are, an open gate has only read the operands. -/
theorem gateWith_ok_state {s t : State} {ops : List Opnd} {f : Res Unit} {vals : List Word}
    (h : gateWith s ops f = .ok (t, vals)) : t = afterReads s ops := by
  unfold gateWith at h
  obtain ⟨_, _, h⟩ := res_bind_ok h
  obtain ⟨_, _, h⟩ := res_bind_ok h
  obtain ⟨_, _, h⟩ := res_bind_ok h
  split at h
  · cases h
  · split at h
    · split at h
      · cases h
      · cases h
        rfl
    · cases h

/-- The inputs that the common start hands on: the operands' list, the context before their reads and the state after. -/
theorem vecStart_ok {s : State} {ops : List Opnd} {fields dCheck : Res Unit} {same : Bool} {src : List VSrc} {i : VIn}
    (h : vecStart s ops fields dCheck same src = .ok i) : i.s = afterReads s ops ∧ i.c = curCtx s ∧ i.ops = ops := by
  unfold vecStart at h
  obtain ⟨⟨t, vals⟩, hgate, h⟩ := res_bind_ok h
  obtain ⟨_, _, h⟩ := res_bind_ok h
  obtain ⟨_, _, h⟩ := res_bind_ok h
  obtain ⟨_, _, h⟩ := res_bind_ok h
  obtain ⟨_, _, h⟩ := res_bind_ok h
  cases h
  exact ⟨gateWith_ok_state hgate, rfl, rfl⟩

/-! ### An instruction without vector sources -/

section
variable {s : State} {ops : List Opnd} (dCheck : Res Unit) (same : Bool) (hready : operandsReady s ops = true)
include hready

/-- A wrong field of the word faults before the hart's slices are looked at (R58). -/
theorem vecStart_nil_fields (e : Stop) : vecStart s ops (.error e) dCheck same [] = .error e := by
  simp only [vecStart, bind, Except.bind, pure, Except.pure, gateWith_fields s ops _ hready]

theorem vecStart_nil_noSlices (hslices : (curCtx s).slices = 0) :
    vecStart s ops (.ok ()) dCheck same [] = noVectorContext := by
  simp only [vecStart, bind, Except.bind, pure, Except.pure, need_of_not (not_not_intro hslices), noVectorContext, faultWith,
    gateWith_fields s ops _ hready]

theorem vecStart_nil_ready (hslices : (curCtx s).slices ≠ 0) (hvec : okRes (vectorReady s) = true) :
    vecStart s ops (.ok ()) (.ok ()) same [] =
      .ok ⟨afterReads s ops, curCtx s, ops, srcValues (curCtx s) (curSeq s) [] ops, .none, []⟩ := by
  simp only [vecStart, bind, Except.bind, pure, Except.pure, need_of hslices, gateWith_ready s ops (.ok ()) hready rfl,
    okRes_unit _ hvec]
  rfl

end

/-! ### Reading operands leaves the vector length alone -/

theorem popQ_vl (c : Ctx) (j : BitVec 2) (n : Nat) : (popQ c j n).vl = c.vl := by
  unfold popQ
  by_cases hnone : (if (bindOf c j).dir then 0 else streamCount ((qOf c j).take n)) = 0
  · rw [if_pos hnone]
    rfl
  · rw [if_neg hnone]
    rfl

theorem popQueues_vl (c : Ctx) (ops : List Opnd) : (popQueues c ops).vl = c.vl := by
  unfold popQueues
  rw [← List.foldl_hom Ctx.vl (g₂ := fun v _ => v), ← List.foldl_hom Ctx.vl (g₂ := fun v _ => v)]
  · rfl
  · intro c j
    dsimp only
    split
    · rfl
    · exact (popQ_vl c _ _).symm
  · intro c j
    dsimp only
    split <;> rfl

@[simp] theorem curCtx_afterReads_vl (s : State) (ops : List Opnd) :
    (curCtx (afterReads s ops)).vl = (curCtx s).vl := by
  simp [afterReads, popQueues_vl]

/-- An update of the context at work is what it makes of that one context. -/
theorem modCur_congr {s : State} {f g : Ctx → Ctx} (h : f (curCtx s) = g (curCtx s)) : modCur s f = modCur s g :=
  congrArg (setCtx s (curKey s)) h

end Sys2Proof.Proofs
end

section
/-!
O28: `vtag` (R125).
-/

namespace Sys2Proof.Proofs

open Sys2Proof Sys2Proof.Machine Sys2Proof.Laws

theorem exec_vtag (d : Spec) (t : BitVec 4) (s : State) : exec (.vtag d t) s = execVtag d t s := rfl

/-- Settles O28: the field check stops code 0xF and the common start a hart without slices; past them the register's
bytes are written back with the new tag. -/
theorem vectorTag : Obligations.VectorTag := by
  intro s r t ops hready
  refine ⟨fun ht => ?_, fun ht hslices => ?_, fun ht hslices hvec => ?_⟩ <;> rw [exec_vtag, execVtag]
  · rw [need_of_not (not_not_intro ht), illegalOperand, faultWith, vecStart_nil_fields _ _ hready]
    rfl
  · rw [need_of ht, vecStart_nil_noSlices _ _ hready hslices]
    rfl
  · rw [need_of ht, vecStart_nil_ready _ hready hslices hvec]
    rfl

end Sys2Proof.Proofs
end

section
/-!
O29: the mask stack (R135 to R137). A mask entry is a number built from a list of bits, so the lemmas say first what its
bits are, then what each instruction makes of the stack.
-/

namespace Sys2Proof.Proofs

open Sys2Proof Sys2Proof.Machine Sys2Proof.Laws

/-! ### The bits of a mask entry -/

theorem testBit_foldr_bits (l : List Bool) (j : Nat) :
    (l.foldr (fun (b : Bool) (n : Nat) => b.toNat + 2 * n) 0).testBit j = l.getD j false := by
  induction l generalizing j with
  | nil => simp
  | cons b l ih =>
    rw [List.foldr_cons, Nat.add_comm, ← Nat.bit_val]
    cases j with
    | zero => simp
    | succ j => simpa [Nat.testBit_bit_succ] using ih j

theorem maskEntry_getLsbD (l : List Bool) {j : Nat} (hj : j < 12288) : (maskEntry l).getLsbD j = l.getD j false := by
  rw [maskEntry, BitVec.getLsbD_ofNat, testBit_foldr_bits]
  simp [hj]

theorem topList_eq (c : Ctx) (n : Nat) : topList c n = (List.range n).map (maskBit c) := by
  simp [topList, activeList]

/-- Bit by bit, a list under the top of the mask stack. -/
theorem zipWith_topList_getD (c : Ctx) (bits : List Bool) (j : Nat) :
    (List.zipWith (· && ·) bits (topList c bits.length)).getD j false = (bits.getD j false && maskBit c j) := by
  by_cases hj : j < bits.length <;> simp [topList_eq, List.getD_eq_getElem?_getD, hj]

/-- The bits of `invertTop` (R136): below the vector length, those of the entry below that the top does not have. -/
theorem invertTop_getLsbD (vl : Nat) (top : BitVec 12288) (rest : List (BitVec 12288)) {j : Nat} (hj : j < 12288) :
    (invertTop vl top rest).getLsbD j =
      ((match rest with | [] => true | below :: _ => below.getLsbD j) && !top.getLsbD j && decide (j < vl)) := by
  have hbelow : (rest.head?.getD (BitVec.allOnes 12288)).getLsbD j =
      (match rest with | [] => true | below :: _ => below.getLsbD j) := by
    cases rest with
    | nil => exact BitVec.getLsbD_allOnes.trans (decide_eq_true hj)
    | cons below rest => rfl
  rw [invertTop, BitVec.getLsbD_and, BitVec.getLsbD_and, BitVec.getLsbD_not, BitVec.getLsbD_ofNat,
    Nat.testBit_two_pow_sub_one, hbelow, decide_eq_true hj, Bool.true_and, Bool.true_and]

/-! ### The bits of a source -/

theorem elemsOf_length (t : ETy) (n : Nat) (l : List Byte) : (elemsOf t n l).length = n := by
  induction n generalizing l with
  | zero => rfl
  | succ n ih => simp [elemsOf, ih]

theorem srcElems_length (c : Ctx) (ops : List Opnd) (t0 : ETy) (n : Nat) (v : VSrc) :
    (srcElems c ops t0 n v).length = n := by
  unfold srcElems
  split
  · exact List.length_replicate
  · exact elemsOf_length _ _ _

/-- The elements that differ from 0; `valAt` reads 0 beyond the last element. -/
def nonzeroBits (el : List Word) : List Bool := el.map (fun w => decide (w ≠ 0))

theorem nonzeroBits_getD (el : List Word) {n : Nat} (hlen : el.length = n) (j : Nat) :
    (nonzeroBits el).getD j false = (decide (j < n) && decide (valAt el j ≠ 0)) := by
  subst hlen
  by_cases hj : j < el.length <;> simp [nonzeroBits, valAt, List.getD_eq_getElem?_getD, hj]

/-! ### The instructions -/

theorem exec_mpush (d a : Spec) (s : State) : exec (.mpush d a) s = execMpush d a s := rfl
theorem exec_mset (d a : Spec) (s : State) : exec (.mset d a) s = execMset d a s := rfl
theorem exec_minv (d : Spec) (s : State) : exec (.minv d) s = execMinv d s := rfl
theorem exec_mpop (d : Spec) (s : State) : exec (.mpop d) s = execMpop d s := rfl
theorem exec_mget (t : BitVec 4) (d a : Spec) (s : State) : exec (.mget t d a) s = execMget t d a s := rfl

/-- What MASK_STACK leaves: its record holds the depth (Table 17.2). -/
def maskFault (s : State) : Out :=
  .next (raiseFault s ⟨0x0D, 0, 0, BitVec.ofNat 16 (curCtx s).masks.length, 0, none⟩)

theorem finish_maskStack (s : State) : finish s (maskStack (curCtx s)) = maskFault s := rfl

/-- The elements of the source of `mpush` or `mset`. -/
def maskElems (i : VIn) (a : Spec) : List Word :=
  srcElems i.c i.ops i.t0 (vlEff i.c [i.t0]) ⟨opA .vsrc a, tyInt⟩

section
variable {s : State} {a : Spec} {i : VIn}
  (hi : vecStart s [opD .mName .m, opA .vsrc a] (.ok ()) (.ok ()) true [⟨opA .vsrc a, tyInt⟩] = .ok i)
include hi

theorem maskSource_eq (depthOk : Nat → Bool) :
    maskSource s .m a depthOk = (do
      need (depthOk i.c.masks.length) (maskStack i.c)
      pure ({ i with s := curPm i.s 8 (vlEff i.c [i.t0]) }, nonzeroBits (maskElems i a))) := by
  simp only [maskSource, List.map_cons, List.map_nil, hi]
  rfl

theorem maskSource_deep {depthOk : Nat → Bool} (h : depthOk i.c.masks.length = false) :
    maskSource s .m a depthOk = maskStack i.c := by
  rw [maskSource_eq hi, h]
  rfl

theorem maskSource_ok {depthOk : Nat → Bool} (h : depthOk i.c.masks.length = true) :
    maskSource s .m a depthOk = .ok ({ i with s := curPm i.s 8 (vlEff i.c [i.t0]) }, nonzeroBits (maskElems i a)) := by
  rw [maskSource_eq hi, h]
  rfl

theorem maskElems_length : (maskElems i a).length = vlEff (curCtx s) [i.t0] := by
  obtain ⟨-, hc, -⟩ := vecStart_ok hi
  rw [maskElems, srcElems_length, hc]

theorem exec_mpush_full (hfull : 8 ≤ (curCtx s).masks.length) : exec (.mpush .m a) s = maskFault s := by
  obtain ⟨-, hc, -⟩ := vecStart_ok hi
  rw [exec_mpush, execMpush, maskSource_deep hi (by simpa [hc] using hfull), hc]
  rfl

theorem exec_mpush_ok (hroom : (curCtx s).masks.length < 8) :
    exec (.mpush .m a) s = .next (retire (modCur (curPm i.s 8 (vlEff (curCtx s) [i.t0])) (fun c => { c with
      masks := maskEntry (List.zipWith (· && ·) (nonzeroBits (maskElems i a))
        (topList (curCtx s) (nonzeroBits (maskElems i a)).length)) :: c.masks }))) := by
  obtain ⟨-, hc, -⟩ := vecStart_ok hi
  rw [exec_mpush, execMpush, maskSource_ok hi (by simpa [hc] using hroom), ← hc]
  rfl

theorem exec_mset_empty (hempty : (curCtx s).masks = []) : exec (.mset .m a) s = maskFault s := by
  obtain ⟨-, hc, -⟩ := vecStart_ok hi
  rw [exec_mset, execMset, maskSource_deep hi (by simp [hc, hempty]), hc]
  rfl

theorem exec_mset_ok (hne : (curCtx s).masks ≠ []) :
    exec (.mset .m a) s = .next (retire (modCur (curPm i.s 8 (vlEff (curCtx s) [i.t0])) (fun c => { c with
      masks := maskEntry (nonzeroBits (maskElems i a)) :: c.masks.tail }))) := by
  obtain ⟨-, hc, -⟩ := vecStart_ok hi
  rw [exec_mset, execMset, maskSource_ok hi (by simpa [hc] using hne), ← hc]
  rfl

end

section
variable {s : State} {i : VIn} (hi : vecStart s [opD .mName .m] (.ok ()) (.ok ()) true [] = .ok i)
include hi

theorem exec_minv_empty (hempty : (curCtx s).masks = []) : exec (.minv .m) s = maskFault s := by
  obtain ⟨-, hc, -⟩ := vecStart_ok hi
  have hmasks : i.c.masks = [] := by rw [hc, hempty]
  simp only [exec_minv, execMinv, hi, bind, Except.bind, hmasks]
  rw [hc, finish_maskStack]

/-- `minv` takes sw.vl after its reads, which is the sw.vl before them. -/
theorem exec_minv_ok {top : BitVec 12288} {rest : List (BitVec 12288)} (hcons : (curCtx s).masks = top :: rest) :
    exec (.minv .m) s = .next (retire (modCur i.s (fun c => { c with
      masks := invertTop (curCtx s).vl.toNat top rest :: rest }))) := by
  obtain ⟨hs, hc, -⟩ := vecStart_ok hi
  have hmasks : i.c.masks = top :: rest := by rw [hc, hcons]
  simp only [exec_minv, execMinv, hi, bind, Except.bind, hmasks, pure, Except.pure, finish_ok]
  rw [modCur_congr]
  rw [hs, curCtx_afterReads_vl]

theorem exec_mpop_empty (hempty : (curCtx s).masks = []) : exec (.mpop .m) s = maskFault s := by
  obtain ⟨-, hc, -⟩ := vecStart_ok hi
  simp only [exec_mpop, execMpop, hi, bind, Except.bind, hc, need_of_not (not_not_intro hempty)]
  rfl

theorem exec_mpop_ok (hne : (curCtx s).masks ≠ []) :
    exec (.mpop .m) s = .next (retire (modCur i.s (fun c => { c with masks := c.masks.tail }))) := by
  obtain ⟨-, hc, -⟩ := vecStart_ok hi
  simp only [exec_mpop, execMpop, hi, bind, Except.bind, hc, need_of hne]
  rfl

end

theorem exec_mget_wrongType {s : State} {t : BitVec 4} {d : Spec} (ht : tyInt (tyOfCode t) = false)
    (hready : operandsReady s [opD .vreg d, opA .mName .m] = true) :
    exec (.mget t d .m) s = .next (raiseFault s ⟨0x02, 0, s.cur.word, 5, 0, none⟩) := by
  simp only [exec_mget, execMget, ht, need_false, illegalOperand, faultWith, vecStart_nil_fields _ _ hready]
  rfl

theorem exec_mget_ok {s : State} {t : BitVec 4} {d : Spec} {i : VIn} (ht : tyInt (tyOfCode t) = true)
    (hi : vecStart s [opD .vreg d, opA .mName .m] (.ok ()) (.ok ()) true [] = .ok i) :
    exec (.mget t d .m) s = .next (retire (vecWrite i d (tyOfCode t)
      ((topList (curCtx s) (vlEff (curCtx s) [tyOfCode t])).map (fun b => some (boolWord b, 0))) 0 0)) := by
  obtain ⟨-, hc, -⟩ := vecStart_ok hi
  simp only [exec_mget, execMget, ht, need_true, hi, ← hc]
  rfl

/-! ### The obligation -/

/-- Settles O29: each instruction by its depth check, and the entry it leaves by the bits of `maskEntry` or
`invertTop`. -/
theorem maskStack : Obligations.MaskStack := by
  intro s c full
  refine ⟨fun a i hi => ⟨exec_mpush_full hi, fun hroom => ⟨_, exec_mpush_ok hi hroom, fun j hj => ?_⟩,
      exec_mset_empty hi, fun hne => ⟨_, exec_mset_ok hi hne, fun j hj => ?_⟩⟩,
    fun i hi => ⟨fun hempty => ⟨exec_minv_empty hi hempty, exec_mpop_empty hi hempty⟩, exec_mpop_ok hi,
      fun top rest hcons => ⟨_, exec_minv_ok hi hcons, fun j hj => invertTop_getLsbD _ top rest hj⟩⟩,
    fun t d i => ⟨exec_mget_wrongType, fun ht hi => ?_⟩⟩
  case refine_1 =>
    rw [maskEntry_getLsbD _ hj, zipWith_topList_getD, nonzeroBits_getD _ (maskElems_length hi)]
    obtain ⟨-, hc, -⟩ := vecStart_ok hi
    rw [maskElems, hc]
  case refine_2 =>
    rw [maskEntry_getLsbD _ hj, nonzeroBits_getD _ (maskElems_length hi)]
    obtain ⟨-, hc, -⟩ := vecStart_ok hi
    rw [maskElems, hc]
  case refine_3 =>
    rw [exec_mget_ok ht hi, topList_eq, List.map_map]
    rfl

end Sys2Proof.Proofs
end

section
/-!
O45: `tstat` (R315).
-/

namespace Sys2Proof.Proofs

open Sys2Proof Sys2Proof.Machine Sys2Proof.Laws

theorem exec_tstat (d a : Spec) (s : State) : exec (.tstat d a) s = execTstat d a s := rfl

/-- The answer is read from the context before the reads of the operands, and retires in the same turn. -/
theorem exec_tstat_ready {s : State} {d : Spec} {n : BitVec 5}
    (hready : operandsReady s [opD .sdst d, opA .tile (.t n)] = true) :
    exec (.tstat d (.t n)) s =
      .next (retire (writeDst (afterReads s [opD .sdst d, opA .tile (.t n)]) d
        (BitVec.ofNat 64 (if (tileOf (curCtx s) n.toNat).defined then tileBits (tileOf (curCtx s) n.toNat) else 0)))) := by
  rw [exec_tstat, execTstat, gate_ready s _ hready]
  rfl

/-- Settles O45: past the operand checks nothing waits or faults, and only the value written depends on whether the
tile is defined. -/
theorem tileStatus : Obligations.TileStatus := by
  intro s d n ops T hready
  rw [exec_tstat_ready hready]
  by_cases hdef : T.defined = true
  · rw [if_pos hdef, if_pos hdef]
  · rw [if_neg hdef, if_neg hdef]
    rfl

end Sys2Proof.Proofs
end

section
/-!
O53: the time base (R343, R344). `tnow` and `tat` go through the operand gate, so their answers follow from `gate_ready`;
what `tnow` leaves of the sequencer follows from the shared updates one by one: reading, writing a result, retiring.
-/

namespace Sys2Proof.Proofs

open Sys2Proof Sys2Proof.Machine Sys2Proof.Laws

/-! ### The sequencer after a scalar result -/

@[simp] theorem curSeq_afterReads (s : State) (ops : List Opnd) :
    curSeq (afterReads s ops) = touchSources s.ids (curSeq s) ops := by
  have hcur : (afterReads s ops).cur = s.cur := rfl
  unfold curSeq
  rw [hcur, afterReads, curCtx_modCur, seqOf_setSeq]

/-- A destination is no source: nothing is touched, killed or popped for it. -/
@[simp] theorem touchSources_sdst (cut : Nat) (q : Seq) (d : Spec) : touchSources cut q [opD .sdst d] = q := by
  cases d with
  | x last i => cases last <;> rfl
  | _ => rfl

theorem curSeq_writeDst_x (s : State) (last : Bool) {i : BitVec 5} (v : Word) (hi : i ≠ 0) :
    curSeq (writeDst s (.x last i) v) = lShift (xWrite (curSeq s) i v) v := by
  rw [writeDst, curSeq_modSeq, if_neg hi]

@[simp] theorem xRead_lShift (q : Seq) (i : BitVec 5) (v : Word) : xRead (lShift q v) i = xRead q i := rfl

/-- A written register is live and holds the value, whichever entry the register cache gives up for it (R52, R85). -/
theorem xRead_xWrite_same (q : Seq) {i : BitVec 5} (v : Word) (hi : i ≠ 0) : xRead (xWrite q i v) i = v := by
  simp only [xRead, xWrite, if_neg hi, rcTouch_live, rcTouch_x]
  simp [i.isLt]

/-- Retiring moves the PC and the loops only: what a sequencer reads of its x registers stays (R104). -/
@[simp] theorem xRead_retire (s : State) (i : BitVec 5) : xRead (curSeq (retire s)) i = xRead (curSeq s) i := by
  rw [retire, retireAt, curSeq_retired]
  rfl

@[simp] theorem curSeq_retire_l (s : State) : (curSeq (retire s)).l = (curSeq s).l := by
  rw [retire, retireAt, curSeq_retired]

/-! ### `tnow` -/

theorem exec_tnow (d : Spec) (s : State) : exec (.tnow d) s = execTnow d s := rfl

theorem exec_tnow_ready {s : State} {d : Spec} (hready : operandsReady s [opD .sdst d] = true) :
    exec (.tnow d) s = .next (retire (writeDst (afterReads s [opD .sdst d]) d (BitVec.ofNat 64 s.now))) := by
  rw [exec_tnow, execTnow, gate_ready s _ hready]
  rfl

/-! ### `tat` and its end -/

theorem exec_tat (a : Spec) (s : State) : exec (.tat a) s = execTat a s := rfl

section
variable {s : State} {a : Spec} (hready : operandsReady s [opA .ssrc a] = true)
include hready

/-- Past the operand checks `tat` is one comparison with the time base. -/
theorem exec_tat_ready :
    exec (.tat a) s = finish s
      (if s.now < (operandValue s [opA .ssrc a] 0).toNat then
        .error (.stall (modSeq s (fun q => { q with status := .until (operandValue s [opA .ssrc a] 0), why := .none })))
      else .ok (retire (afterReads s [opA .ssrc a]))) := by
  rw [exec_tat, execTat, gate_ready s _ hready]
  rfl

theorem exec_tat_passed (hle : (operandValue s [opA .ssrc a] 0).toNat ≤ s.now) :
    exec (.tat a) s = .next (retire (afterReads s [opA .ssrc a])) := by
  rw [exec_tat_ready hready, if_neg (Nat.not_lt.mpr hle), finish_ok]

/-- The stall reads nothing: the operand is read again when the sequencer resumes. -/
theorem exec_tat_ahead (hlt : s.now < (operandValue s [opA .ssrc a] 0).toNat) :
    exec (.tat a) s =
      .next (modSeq s (fun q => { q with status := .until (operandValue s [opA .ssrc a] 0), why := .none })) := by
  rw [exec_tat_ready hready, if_pos hlt, finish_stall]

end

theorem exec_timeBaseReached {s : State} {slot key : Nat} {sd : Side} {t : Word} (hctx : (slotAt s slot).ctx = some key)
    (hstatus : (seqOf (ctxAt s key) sd).status = .until t) :
    exec (.timeBaseReached slot sd) s = .next
      (if s.now < t.toNat then s
      else modCtx s key (fun c => setSeq c sd { seqOf c sd with status := .running })) := by
  change execTimeBaseReached slot sd s = _
  simp only [execTimeBaseReached, hctx, hstatus]

/-! ### The obligation -/

/-- Settles O53: an open gate leaves `tnow` the write of a result, and `tat` and the end of its stall the comparison of
the time base with the time waited for. -/
theorem timeBase : Obligations.TimeBase := by
  refine ⟨fun s d hready => ⟨exec_tnow_ready hready, ?_⟩,
    fun s a hready => ⟨exec_tat_passed hready, exec_tat_ahead hready⟩,
    fun s slot key sd t hctx hstatus => ?_⟩
  case refine_1 =>
    rintro i t rfl hi - hexec
    rw [exec_tnow_ready hready, Host.Outcome.next.injEq] at hexec
    subst hexec
    rw [xRead_retire, curSeq_retire_l, curSeq_writeDst_x _ _ _ hi, curSeq_afterReads, touchSources_sdst]
    exact ⟨by rw [xRead_lShift, xRead_xWrite_same _ _ hi], by simp⟩
  case refine_2 =>
    rw [exec_timeBaseReached hctx hstatus]
    exact ⟨fun hlt => by rw [if_pos hlt], fun hle => by rw [if_neg (Nat.not_lt.mpr hle)]⟩

end Sys2Proof.Proofs
end
